-- ==== Sys2Proof/Word.lean ====
section
/-!
DEFINITION. The word types of the block (00_scope.md R9, R11): a Byte is an integer 0..255, a Word16 an
integer 0..65535. Nothing here is computed; every operation on them stands under Machine/.
-/

namespace Sys2Proof

/-- One payload element, buffer element or frame byte: 8 bits, unsigned (R9). -/
abbrev Byte := BitVec 8

/-- The checksum register and the checksum value: 16 bits, unsigned (R9, R21). -/
abbrev Word16 := BitVec 16

end Sys2Proof
end

