-- ==== Sys2Proof/Config.lean ====
section
/-!
DEFINITION. What is fixed for a run (FRAME_MODE and MAX_LEN, 00_scope.md R7 and R8, 10_state.md R33), this
hardware's choice of them, and the one free value: which enabled agent the scheduler takes (R80).
-/

namespace Sys2Proof

/-- FRAME_MODE (R7): how many checksum bytes the framer appends. -/
inductive FrameMode where
  /-- VARIABLE. -/
  | variableLen
  /-- FIXED2. -/
  | fixed2
deriving DecidableEq, Repr

/-- The parameters of the step relation (R33): no command reads or writes them as state. -/
structure Config where
  /-- FRAME_MODE (R7). -/
  frameMode : FrameMode
  /-- MAX_LEN (R8): the largest number of elements one command may carry; `none` is unbounded. -/
  maxLen : Option Nat
deriving DecidableEq, Repr

/-- This hardware: "This hardware takes VARIABLE" (R7), "The reference model takes MAX_LEN = unbounded" (R8). -/
def Config.hardware : Config := { frameMode := .variableLen, maxLen := none }

/-- The two agents of R80. -/
inductive Agent where
  | host
  | block
deriving DecidableEq, Repr, Inhabited

/-- DESIGN CHOICE (safe, log 3): the agent the scheduler takes at the n-th choice that `State.schedule` does
not make, where both agents have an enabled action. "At any moment the scheduler may take any enabled action
of either agent" (R80): no proof can see this value. -/
opaque Config.freeAgent : Nat → Agent

end Sys2Proof
end

