-- ==== Sys2Proof/Syntax.lean ====
section
/-!
DEFINITION. The commands of the block: one constructor for each row of spec/opcode_table.json (30_encoding.md
R61), each with its operand DATA. An element of DATA is a mathematical integer (00_scope.md R10), so that the
documented error on 256 and -1 can be written (log 12).
-/

namespace Sys2Proof

/-- A command: an operation of R61 with its DATA. -/
inductive Instr where
  /-- COMPUTE, OP 0b00: the 16-bit checksum of DATA (R106). -/
  | compute (data : List Int)
  /-- FRAME, OP 0b01: the checksum bytes to append to DATA (R132). -/
  | frame (data : List Int)
  /-- FRAME_COMPLETE, OP 0b10: DATA followed by its checksum bytes (R133). -/
  | frameComplete (data : List Int)
  /-- VERIFY, OP 0b11: whether the packet DATA is consistent (R150). -/
  | verify (data : List Int)
deriving DecidableEq, Repr

/-- The operand of a command. -/
def Instr.data : Instr → List Int
  | .compute d => d
  | .frame d => d
  | .frameComplete d => d
  | .verify d => d

end Sys2Proof
end

