-- ==== Sys2Proof/Decode.lean ====
section
/-!
DEFINITION. Command encoding (30_encoding.md R60 to R62, R65 to R67): a command is a pair (OP, DATA), OP in
bits [1:0] of a command word that is exactly 2 bits wide. The decoder is total on it, and the encoder is
written from the same table.
-/

namespace Sys2Proof

/-- A command as the host presents it (R60): the 2-bit command word CMD and DATA. -/
structure Command where
  cmd : BitVec 2
  data : List Int
deriving DecidableEq, Repr

/-- The operation codes of R61, one per row of spec/opcode_table.json. -/
def opCompute : BitVec 2 := 0b00#2
def opFrame : BitVec 2 := 0b01#2
def opFrameComplete : BitVec 2 := 0b10#2
def opVerify : BitVec 2 := 0b11#2

/-- R62: `decode(op) = [COMPUTE, FRAME, FRAME_COMPLETE, VERIFY][op]`. Every value of OP is assigned, so
the last branch is OP = 0b11 (`decode_verify` in Laws). -/
def decode (c : Command) : Instr :=
  if c.cmd = opCompute then .compute c.data
  else if c.cmd = opFrame then .frame c.data
  else if c.cmd = opFrameComplete then .frameComplete c.data
  else .verify c.data

/-- Why a word is no command word. -/
inductive DecodeError where
  /-- The word has a bit set above bit 1: "CMD is exactly 2 bits wide and has no other field" (R60). -/
  | wordTooWide (w : Nat)
deriving DecidableEq, Repr

/-- Any word read as a command word: rejected by name where it is wider than CMD (R60; log 13). -/
def decodeWord (w : Nat) (data : List Int) : Except DecodeError Instr :=
  if w < 4 then .ok (decode { cmd := BitVec.ofNat 2 w, data := data }) else .error (.wordTooWide w)

/-- The instruction of a word numbered as spec/opcode_table.json numbers it. The table gives DATA no bits, so
its operand is the empty sequence; every bit above `nbits` is 0. -/
def decodeTableWord (nbits w : Nat) : Option Instr :=
  match decodeWord (w % 2 ^ nbits) [] with
  | .ok i => some i
  | .error _ => none

/-- The command of an instruction, from the table of R61. -/
def encode : Instr → Command
  | .compute d => { cmd := opCompute, data := d }
  | .frame d => { cmd := opFrame, data := d }
  | .frameComplete d => { cmd := opFrameComplete, data := d }
  | .verify d => { cmd := opVerify, data := d }

/-- The mnemonic of an instruction (R61). -/
def mnemonic : Instr → String
  | .compute _ => "COMPUTE"
  | .frame _ => "FRAME"
  | .frameComplete _ => "FRAME_COMPLETE"
  | .verify _ => "VERIFY"

/-- One row of spec/opcode_table.json: the keys a decoder is written from (R67). -/
structure OpcodeRow where
  mnemonic : String
  matchBits : BitVec 2
  mask : BitVec 2
deriving DecidableEq, Repr

/-- spec/opcode_table.json (R67: "one row per OP value of rule R61"). -/
def opcodeTable : List OpcodeRow :=
  [ { mnemonic := "COMPUTE", matchBits := 0x0#2, mask := 0x3#2 },
    { mnemonic := "FRAME", matchBits := 0x1#2, mask := 0x3#2 },
    { mnemonic := "FRAME_COMPLETE", matchBits := 0x2#2, mask := 0x3#2 },
    { mnemonic := "VERIFY", matchBits := 0x3#2, mask := 0x3#2 } ]

/-- A command word is an instance of a table row: masked, it is the row's match value. -/
def OpcodeRow.covers (r : OpcodeRow) (cmd : BitVec 2) : Bool := cmd &&& r.mask == r.matchBits

end Sys2Proof
end

