-- ==== Sys2Proof/Machine/State.lean ====
section
/-!
DEFINITION. The state of the block (10_state.md R20 to R28), the host's coming actions and the scheduler's
coming choices as plain data beside it, the ways a step can stop, and the state after RESET (R34). A spec
field that holds no value (⊥, 00_scope.md R12, R31) is `none` (log 6).
-/

namespace Sys2Proof.Machine

/-- The sequencing state (R23). -/
inductive Phase where
  /-- 0b00: no transaction is in progress, and the block accepts SUBMIT. -/
  | idle
  /-- 0b01: an accepted command is being computed. -/
  | busy
  /-- 0b10: a response is held in `resp`. -/
  | done
  /-- 0b11: "never reached by any rule. A model that finds `phase = 0b11` must fault" (R23, I8; log 7). -/
  | unused
deriving DecidableEq, Repr

/-- The operation of a command (R24, R61). -/
inductive Op where
  | compute
  | frame
  | frameComplete
  | verify
deriving DecidableEq, Repr

/-- What an OK response carries (R68): the constructor is its kind. -/
inductive Payload where
  /-- Kind VALUE16. -/
  | value16 (v : Word16)
  /-- Kind BYTES. -/
  | bytes (bs : List Byte)
  /-- Kind BOOL, true = packet valid. -/
  | flag (b : Bool)
deriving DecidableEq, Repr

/-- The error codes (R68, R170): "Single error kind". -/
inductive ErrorCode where
  | invalidByteValue
deriving DecidableEq, Repr

/-- A response (R68). ERR carries no kind, no payload, no element index and no OP. -/
inductive Response where
  | ok (p : Payload)
  | err (c : ErrorCode)
deriving DecidableEq, Repr

/-- The host's actions (R80). -/
inductive HostAction where
  /-- SUBMIT(OP, DATA) (R81). -/
  | submit (c : Command)
  /-- COLLECT (R86). -/
  | collect
  /-- A read of STATUS (R90). -/
  | readStatus
  /-- RESET (R200). -/
  | reset
deriving DecidableEq, Repr

/-- What the host observes (R92). -/
inductive Observation where
  /-- The response a COLLECT returned. -/
  | response (r : Response)
  /-- The value a STATUS read returned. -/
  | status (b : Byte)
deriving DecidableEq, Repr

/-- The fields of R20 that may hold ⊥. -/
inductive Field where
  | op
  | buf
  | idx
  | cnt
  | crc
  | resp
deriving DecidableEq, Repr

/-- How a step stops. The spec asks for each; none is reached from `State.reset`. All are safe: the machine
stops where the spec gives no value to go on with. -/
inductive Fault where
  /-- Raised by SUBMIT, COLLECT, a STATUS read and the BLOCK when they find `phase = 0b11` (R23). Safe. -/
  | illegalPhase
  /-- Raised by any step that reads a field holding ⊥: "A rule that reads such a field makes the model fault"
  (R31). Safe. -/
  | noValue (f : Field)
  /-- Raised by ABSORB where the operand buffer has no element `i`: the buffer's addresses are 0 .. len-1 (R40,
  log 8). Safe. -/
  | noElement (i : Nat)
deriving DecidableEq, Repr

/-- Why a step has no meaning. -/
inductive Refusal where
  /-- Raised by an arm of `exec` whose instruction has no meaning yet; no arm is such an arm. Safe. -/
  | notModelled (mnemonic : String)
deriving DecidableEq, Repr

/-- The operand buffer's cells, addressed by element index (R25, R40). The canonical form lists the addresses
0, 1, 2, … in order, and an unlisted address has no value (log 8). -/
abbrev Memory := List Host.Cell

/-- The state of the block (R20), and beside it the configuration and the MODEL's own fields. -/
structure State where
  /-- The sequencing state (R23). -/
  phase : Phase
  /-- The operation of the accepted command (R24). -/
  op : Option Op
  /-- The operand buffer, a copy of DATA (R25). -/
  buf : Option Memory
  /-- How many elements of `buf` have been absorbed into `crc` (R26). -/
  idx : Option Nat
  /-- How many SHIFT steps remain for the element most recently absorbed (R27). -/
  cnt : Option Nat
  /-- The checksum register (R21). -/
  crc : Option Word16
  /-- The response held from DONE until COLLECT (R28). -/
  resp : Option Response
  /-- FRAME_MODE and MAX_LEN (R33). No step writes it (log 5). -/
  cfg : Config
  /-- The MODEL's own: the host's coming actions, the next one first (R80, log 2). -/
  script : List HostAction
  /-- The MODEL's own: the scheduler's coming choices, the next one first (R80, log 3). -/
  schedule : List Agent
  /-- The MODEL's own: how many choices have been drawn from `Config.freeAgent` (log 3). -/
  draws : Nat
  /-- The MODEL's own: what the host has observed, oldest first (R92, log 4). -/
  observed : List Observation
  deriving DecidableEq, Repr

/-- The state after RESET (R34), on this hardware (R7, R8). The host has nothing to do yet. -/
def State.reset : State :=
  { phase := .idle
    op := none
    buf := none
    idx := none
    cnt := none
    crc := none
    resp := none
    cfg := Config.hardware
    script := []
    schedule := []
    draws := 0
    observed := [] }

/-- What a step answers. -/
abbrev Result := Host.Outcome State Fault Refusal

end Sys2Proof.Machine
end

