-- ==== Sys2Proof/Machine/Ops.lean ====
section
/-!
DEFINITION. The named operations every meaning is written over: the operand buffer (20_memory.md R40), reading
a field that may hold ⊥ (10_state.md R31), the phase conditions and the hold (40_command_protocol.md R80),
taking the one exception (60_exceptions.md R171, 40_command_protocol.md R82) and the return from it (R175,
R86), the writes of an accepted SUBMIT (R83), RESET (70_reset_and_hazards.md R200), and the bit-field helpers.
-/

namespace Sys2Proof.Machine

/-! ## Bit fields -/

/-- `zext_16(b)` (R12): a Byte widened to a Word16 with bits 15..8 zero. -/
def zext16 (b : Byte) : Word16 := b.setWidth 16

/-- The low byte: `crc AND 0xFF`, that is `crc[7:0]` (R42, BYTEMASK of R64). -/
def lsb (c : Word16) : Byte := (c &&& 0xFF#16).setWidth 8

/-- The high byte: `(crc >> 8) AND 0xFF`, that is `crc[15:8]` (R42). -/
def msb (c : Word16) : Byte := ((c >>> 8) &&& 0xFF#16).setWidth 8

/-! ## The operand buffer -/

/-- The cells of a byte sequence whose first element stands at address `i`. -/
def Memory.cellsFrom : Nat → List Byte → Memory
  | _, [] => []
  | i, b :: bs => (i, b) :: Memory.cellsFrom (i + 1) bs

/-- The buffer that holds a byte sequence: element k at address k (R40). -/
def Memory.ofBytes (bs : List Byte) : Memory := Memory.cellsFrom 0 bs

/-- `MemRead(i, 1)` (R12, R40): element `i`, or no value where the buffer has no such element. -/
def Memory.read : Memory → Nat → Option Byte
  | [], _ => none
  | (a, b) :: m, i => if a = i then some b else Memory.read m i

/-- `len(buf)` (R25). -/
def Memory.size (m : Memory) : Nat := List.length m

/-- The whole buffer as a byte sequence, as FINISH reads it for FRAME_COMPLETE (R40, R133). -/
def Memory.bytes (m : Memory) : List Byte := List.map (fun c => c.2) m

/-- The listed addresses are `i`, `i + 1`, … in order. -/
def Memory.wfFrom : Nat → Memory → Bool
  | _, [] => true
  | i, (a, _) :: m => decide (a = i) && Memory.wfFrom (i + 1) m

/-- The canonical form: addresses 0 .. len-1, strictly rising, none missing (R40). -/
def Memory.wf (m : Memory) : Bool := Memory.wfFrom 0 m

/-! ## Reading a field, waiting, and the phase conditions -/

/-- Read a field that may hold ⊥: "A rule that reads such a field makes the model fault. It never supplies a
value" (R31). -/
def readField {α : Type} (x : Option α) (f : Field) (k : α → Result) : Result :=
  match x with
  | some v => k v
  | none => .fault (.noValue f)

/-- A hold: "A disabled action has no step: this is a hold. It is not a fault and not a refusal" (R80), and "No
state changes during a hold" (V55). DEDUCED (safe, log 1). -/
def hold (s : State) : Result := .next s

/-- `require phase == p`, otherwise hold (R81, R86, R102, R103, R85). Finding the unused code 0b11 faults
(R23). -/
def whenPhase (p : Phase) (s : State) (k : Result) : Result :=
  if s.phase = .unused then .fault .illegalPhase
  else if s.phase = p then k
  else hold s

/-! ## The exception and the return from it -/

/-- Taking InvalidByteValue (R171): the error response is written and the phase moves to DONE. "No block step
runs for it, and it writes no other field" (R82). It is not a trap (R174). -/
def raiseInvalidByteValue (s : State) : Result :=
  .next { s with resp := some (.err .invalidByteValue), phase := .done }

/-- COLLECT (R86), which is also the return from the error (R175): enabled in DONE, it returns `resp` to the
host, empties it and moves to IDLE. -/
def collect (s : State) : Result :=
  whenPhase .done s <| readField s.resp .resp fun r =>
    .next { s with observed := s.observed ++ [.response r], resp := none, phase := .idle }

/-! ## Accepting a command, and RESET -/

/-- INIT = 0xFFFF (R64): `crc` at the start of every command (R101). -/
def crcInit : Word16 := 0xFFFF#16

/-- The writes of an accepted SUBMIT (R83). -/
def accept (o : Op) (bs : List Byte) (s : State) : State :=
  { s with
    op := some o
    buf := some (Memory.ofBytes bs)
    idx := some 0
    cnt := some 0
    crc := some crcInit
    phase := .busy }

/-- RESET (R200): every phase; the configuration stays (R203). It reads no field, so it also leaves a state
with `phase = 0b11` (log 7). -/
def resetBlock (s : State) : State :=
  { s with phase := .idle, op := none, buf := none, idx := none, cnt := none, crc := none, resp := none }

end Sys2Proof.Machine
end

