-- ==== Sys2Proof/Machine/Engine.lean ====
section
/-!
DEFINITION. The Checksum Engine (41_checksum_engine.md): the reference functions (R104) and the block steps
ABSORB (R102) and SHIFT (R103). INIT is `crcInit` in Ops.lean (R101).
-/

namespace Sys2Proof.Machine

/-- POLY = 0xA001 (R64), the bit-reversed 0x8005 (R2). -/
def crcPoly : Word16 := 0xA001#16

/-- `carry = crc AND 0x0001` (R103, LSBMASK of R64), before the shift. -/
def carry (c : Word16) : Word16 := c &&& 0x0001#16

/-- `shift1` (R104): a logical right shift by one, POLY XORed in where a 1 was shifted out. -/
def shift1 (c : Word16) : Word16 :=
  if carry c ≠ 0#16 then (c >>> 1) ^^^ crcPoly else c >>> 1

/-- `shift1^n`. -/
def shiftN : Nat → Word16 → Word16
  | 0, c => c
  | n + 1, c => shiftN n (shift1 c)

/-- `c XOR zext_16(b)` (R102): the byte is XORed into the low 8 bits of the register. -/
def absorbByte (c : Word16) (b : Byte) : Word16 := c ^^^ zext16 b

/-- `updateByte` (R104): `shift1^8(c XOR zext_16(b))`. -/
def updateByte (c : Word16) (b : Byte) : Word16 := shiftN 8 (absorbByte c b)

/-- `crc16` (R104): `foldl(updateByte, 0xFFFF, bs)`. -/
def crc16 (bs : List Byte) : Word16 := bs.foldl updateByte crcInit

/-- ABSORB (R102): enabled when phase = BUSY, cnt = 0 and idx < len(buf). -/
def absorb (s : State) : Result :=
  whenPhase .busy s <|
    readField s.cnt .cnt fun n => readField s.idx .idx fun i => readField s.buf .buf fun m =>
      if n = 0 ∧ i < Memory.size m then
        readField s.crc .crc fun c =>
          match Memory.read m i with
          | some b => .next { s with crc := some (absorbByte c b), idx := some (i + 1), cnt := some 8 }
          | none => .fault (.noElement i)
      else hold s

/-- SHIFT (R103): enabled when phase = BUSY and cnt > 0. -/
def shift (s : State) : Result :=
  whenPhase .busy s <|
    readField s.cnt .cnt fun n =>
      if 0 < n then
        readField s.crc .crc fun c => .next { s with crc := some (shift1 c), cnt := some (n - 1) }
      else hold s

end Sys2Proof.Machine
end

