-- ==== Sys2Proof/Machine/Operands.lean ====
section
/-!
DEFINITION. Operand decoding, the same for every OP (30_encoding.md R63), and the length admission of a finite
implementation (20_memory.md R47).
-/

namespace Sys2Proof.Machine

/-- `valid(e)` (R63): `0 <= e <= 255`. -/
def validElement (e : Int) : Bool := decide (0 ≤ e) && decide (e ≤ 255)

/-- `toByte(e)` (R63): the Byte of the same value, used only where `validElement e`. -/
def toByte (e : Int) : Byte := BitVec.ofInt 8 e

/-- `decodeData(DATA)` (R63): the captured bytes, or none where any element is invalid. -/
def decodeData (data : List Int) : Option (List Byte) :=
  if data.all validElement then some (data.map toByte) else none

/-- The operation an instruction is issued with (R61): what an accepted SUBMIT writes to `op` (R83). -/
def opOf : Instr → Op
  | .compute _ => .compute
  | .frame _ => .frame
  | .frameComplete _ => .frameComplete
  | .verify _ => .verify

/-- `len(DATA) <= MAX_LEN` (R47, R81). -/
def admits (c : Config) (n : Nat) : Bool :=
  match c.maxLen with
  | none => true
  | some m => decide (n ≤ m)

end Sys2Proof.Machine
end

