-- ==== Sys2Proof/Machine/Submit.lean ====
section
/-!
DEFINITION. SUBMIT, the command action shared by every operation (40_command_protocol.md R81 to R83).
-/

namespace Sys2Proof.Machine

/-- SUBMIT(OP, DATA) (R81): enabled iff phase = IDLE and len(DATA) <= MAX_LEN, otherwise a hold. DATA is
validated whole before any other effect (R173). It is rejected with InvalidByteValue where an element is
invalid (R82), else accepted (R83). -/
def submit (o : Op) (data : List Int) (s : State) : Result :=
  whenPhase .idle s <|
    if admits s.cfg data.length then
      match decodeData data with
      | none => raiseInvalidByteValue s
      | some bs => .next (accept o bs s)
    else hold s

end Sys2Proof.Machine
end

