-- ==== Sys2Proof/Machine/Compute.lean ====
section
/-!
DEFINITION. COMPUTE (41_checksum_engine.md R106): its SUBMIT and the response FINISH forms for it.
-/

namespace Sys2Proof.Machine

/-- COMPUTE's SUBMIT (R81, R106). -/
def execCompute (data : List Int) (s : State) : Result := submit .compute data s

/-- The response of COMPUTE (R85, R106): `OK(VALUE16, crc)`. -/
def resultCompute (c : Word16) : Response := .ok (.value16 c)

end Sys2Proof.Machine
end

