-- ==== Sys2Proof/Machine/Framer.lean ====
section
/-!
DEFINITION. The Packet Framer (42_framer.md): the frame bytes in both modes (R130, R131), FRAME (R132) and
FRAME_COMPLETE (R133), each with its SUBMIT and the response FINISH forms for it.
-/

namespace Sys2Proof.Machine

/-- `frameBytes_VARIABLE` (R130): two bytes, low byte first, when `c > 0xFF`, else one. -/
def frameBytesVariable (c : Word16) : List Byte :=
  if 0xFF < c.toNat then [lsb c, msb c] else [lsb c]

/-- `frameBytes_FIXED2` (R131): always two bytes, low byte first. -/
def frameBytesFixed2 (c : Word16) : List Byte := [lsb c, msb c]

/-- `frameBytes` according to FRAME_MODE (R131). -/
def frameBytes (m : FrameMode) (c : Word16) : List Byte :=
  match m with
  | .variableLen => frameBytesVariable c
  | .fixed2 => frameBytesFixed2 c

/-- FRAME's SUBMIT (R81, R132). -/
def execFrame (data : List Int) (s : State) : Result := submit .frame data s

/-- The response of FRAME (R85, R132): `OK(BYTES, frameBytes(crc))`. -/
def resultFrame (m : FrameMode) (c : Word16) : Response := .ok (.bytes (frameBytes m c))

/-- FRAME_COMPLETE's SUBMIT (R81, R133). -/
def execFrameComplete (data : List Int) (s : State) : Result := submit .frameComplete data s

/-- The response of FRAME_COMPLETE (R85, R133): `OK(BYTES, buf ++ frameBytes(crc))`. -/
def resultFrameComplete (m : FrameMode) (bs : List Byte) (c : Word16) : Response :=
  .ok (.bytes (bs ++ frameBytes m c))

end Sys2Proof.Machine
end

