-- ==== Sys2Proof/Machine/Verifier.lean ====
section
/-!
DEFINITION. The Verifier (43_verifier.md R150): VERIFY's SUBMIT and the response FINISH forms for it. "Sums to
zero" is read as "every byte in it is zero" (90_conflicts.md C2).
-/

namespace Sys2Proof.Machine

/-- VERIFY's SUBMIT (R81, R150). -/
def execVerify (data : List Int) (s : State) : Result := submit .verify data s

/-- The response of VERIFY (R85, R150): `OK(BOOL, all(b == 0, frameBytes(crc)))`. -/
def resultVerify (m : FrameMode) (c : Word16) : Response :=
  .ok (.flag ((frameBytes m c).all fun b => decide (b = 0#8)))

end Sys2Proof.Machine
end

