-- ==== Sys2Proof/Machine/Block.lean ====
section
/-!
DEFINITION. The BLOCK agent (40_command_protocol.md R84, R85): FINISH, and which of ABSORB, SHIFT and FINISH
runs. Also the reference function `spec` of a whole transaction (R89).
-/

namespace Sys2Proof.Machine

/-- The OK response of an operation, from the final `crc` (R69, R85). -/
def result (o : Op) (m : FrameMode) (bs : List Byte) (c : Word16) : Response :=
  match o with
  | .compute => resultCompute c
  | .frame => resultFrame m c
  | .frameComplete => resultFrameComplete m bs c
  | .verify => resultVerify m c

/-- FINISH (R85): enabled when phase = BUSY, cnt = 0 and idx = len(buf). It "never produces ERR". -/
def finish (s : State) : Result :=
  whenPhase .busy s <|
    readField s.cnt .cnt fun n => readField s.idx .idx fun i => readField s.buf .buf fun m =>
      if n = 0 ∧ i = Memory.size m then
        readField s.op .op fun o => readField s.crc .crc fun c =>
          .next { s with resp := some (result o s.cfg.frameMode (Memory.bytes m) c), phase := .done }
      else hold s

/-- One BLOCK step (R84): SHIFT if cnt > 0, else ABSORB if idx < len(buf), else FINISH if idx = len(buf). In
IDLE and DONE no BLOCK step is enabled (R91), and none is where idx > len(buf), which no run reaches (log 11). -/
def blockStep (s : State) : Result :=
  whenPhase .busy s <|
    readField s.cnt .cnt fun n =>
      if 0 < n then shift s
      else readField s.idx .idx fun i => readField s.buf .buf fun m =>
        if i < Memory.size m then absorb s
        else if i = Memory.size m then finish s
        else hold s

/-- `spec(OP, DATA)` (R89): what the COLLECT of a transaction returns. -/
def spec (m : FrameMode) (o : Op) (data : List Int) : Response :=
  match decodeData data with
  | none => .err .invalidByteValue
  | some bs => result o m bs (crc16 bs)

end Sys2Proof.Machine
end

