-- ==== Sys2Proof/Machine/Dispatch.lean ====
section
/-!
DEFINITION. The meaning of each command: its SUBMIT (log 10). What its FINISH answers is `result` in Block.lean.
-/

namespace Sys2Proof.Machine

def exec (i : Instr) (s : State) : Host.Outcome State Fault Refusal :=
  match i with
  | .compute data => Sys2Proof.Machine.execCompute data s
  | .frame data => Sys2Proof.Machine.execFrame data s
  | .frameComplete data => Sys2Proof.Machine.execFrameComplete data s
  | .verify data => Sys2Proof.Machine.execVerify data s

end Sys2Proof.Machine
end

