-- ==== Sys2Proof/Machine/Flags.lean ====
section
/-!
DEFINITION. The STATUS view (10_state.md R30) and the codes a host sees: the 2-bit phase code (R23), the
one-bit status code and the kind of a response (30_encoding.md R68). The block has no condition codes (R29).
-/

namespace Sys2Proof.Machine

/-- The 2-bit encoding of `phase` (R23). -/
def Phase.code : Phase → BitVec 2
  | .idle => 0b00#2
  | .busy => 0b01#2
  | .done => 0b10#2
  | .unused => 0b11#2

/-- The kinds of an OK response (R68). -/
inductive Kind where
  | value16
  | bytes
  | bool
deriving DecidableEq, Repr

/-- The kind of a payload (R68). -/
def Payload.kind : Payload → Kind
  | .value16 _ => .value16
  | .bytes _ => .bytes
  | .flag _ => .bool

/-- The status code of a response, one bit (R68): 0 = OK, 1 = INVALID_BYTE_VALUE. -/
def Response.statusCode : Response → BitVec 1
  | .ok _ => 0#1
  | .err .invalidByteValue => 1#1

/-- `cmd_ready` (R81). -/
def cmdReady (s : State) : Bool := decide (s.phase = .idle)

/-- The STATUS byte from its four flags: bit 0 READY, 1 BUSY, 2 DONE, 3 ERR, 7:4 hardwired 0 (R30). -/
def statusByte (ready busy done err : Bool) : Byte :=
  0#4 ++ BitVec.ofBool err ++ BitVec.ofBool done ++ BitVec.ofBool busy ++ BitVec.ofBool ready

/-- The STATUS view (R30), computed from `phase` and `resp`. It reads `resp` only in DONE, where a ⊥ faults
(R31), and finding `phase = 0b11` faults (R23). -/
def statusView (s : State) : Except Fault Byte :=
  match s.phase with
  | .idle => .ok (statusByte true false false false)
  | .busy => .ok (statusByte false true false false)
  | .done =>
    match s.resp with
    | some r => .ok (statusByte false false true (decide (r.statusCode = 1#1)))
    | none => .error (.noValue .resp)
  | .unused => .error .illegalPhase

/-- A STATUS read (R90): the host gets the view, and no state of the block changes. -/
def readStatus (s : State) : Result :=
  match statusView s with
  | .ok b => .next { s with observed := s.observed ++ [.status b] }
  | .error f => .fault f

end Sys2Proof.Machine
end

