-- ==== Sys2Proof/Machine/Scheduler.lean ====
section
/-!
DEFINITION. The HOST agent and the scheduler (40_command_protocol.md R80): which of the host's next action and
the BLOCK's step is enabled, which the scheduler takes where both are, and what the host's action does; a SUBMIT's command is decoded there.
-/

namespace Sys2Proof.Machine

/-- The host's next action is enabled: SUBMIT in IDLE for a DATA within MAX_LEN (R81), COLLECT in DONE (R86),
a STATUS read and RESET always (R90, R200). -/
def hostReady (s : State) : Bool :=
  match s.script with
  | [] => false
  | .submit c :: _ => decide (s.phase = .idle) && admits s.cfg c.data.length
  | .collect :: _ => decide (s.phase = .done)
  | .readStatus :: _ => true
  | .reset :: _ => true

/-- A BLOCK step is enabled: in BUSY (R84), but for a state with cnt = 0 and idx > len(buf) (log 11). A BUSY
state with a field at ⊥ counts as enabled: the BLOCK reads it and faults (R31). -/
def blockReady (s : State) : Bool :=
  decide (s.phase = .busy) &&
    match s.cnt, s.idx, s.buf with
    | some 0, some i, some m => decide (i ≤ Memory.size m)
    | _, _, _ => true

/-- The scheduler's choice where both agents have an enabled action: "At any moment the scheduler may take any
enabled action of either agent" (R80). It is the next entry of `schedule`, and past its end a free value. -/
def chooseAgent (s : State) : Agent × State :=
  match s.schedule with
  | a :: rest => (a, { s with schedule := rest })
  | [] => (Config.freeAgent s.draws, { s with draws := s.draws + 1 })

/-- The host takes its next action (R80). A SUBMIT runs the decoded command. -/
def hostStep (s : State) : Result :=
  match s.script with
  | [] => hold s
  | .submit c :: rest => exec (decode c) { s with script := rest }
  | .collect :: rest => collect { s with script := rest }
  | .readStatus :: rest => readStatus { s with script := rest }
  | .reset :: rest => .next (resetBlock { s with script := rest })

/-- No action of either agent is enabled: the block is quiescent (R91) or the host waits (R87). A state found
with `phase = 0b11` faults (R23). -/
def waitStep (s : State) : Result :=
  if s.phase = .unused then .fault .illegalPhase else hold s

/-- One step of the two agents under the scheduler (R80). -/
def schedulerStep (s : State) : Result :=
  match hostReady s, blockReady s with
  | true, true =>
    match chooseAgent s with
    | (.host, t) => hostStep t
    | (.block, t) => blockStep t
  | true, false => hostStep s
  | false, true => blockStep s
  | false, false => waitStep s

/-- `s` with a command placed where `step` takes its next one: at the front of the host's actions, with the
phase in which SUBMIT is enabled (R81, log 2). -/
def placeCommand (s : State) (c : Command) : State :=
  { s with phase := .idle, script := .submit c :: s.script }

end Sys2Proof.Machine
end

