-- ==== Sys2Proof/Machine/Step.lean ====
section
/-!
DEFINITION. One step of the machine, and the placing of a word where `step` takes its next command.
-/

namespace Sys2Proof.Machine

/-- One step (R80): an enabled action of the HOST or of the BLOCK. -/
def step (s : State) : Host.Outcome State Fault Refusal := schedulerStep s

/-- `s` with the command of table word `w` placed as the host's next SUBMIT, its DATA empty (the table gives
DATA no bits). A word wider than CMD is no command, so nothing is placed (R60, log 13). -/
def State.withFetchWord (s : State) (nbits w : Nat) : State :=
  match decodeTableWord nbits w with
  | some i => placeCommand s (encode i)
  | none => s

end Sys2Proof.Machine
end

