-- ==== Sys2Proof/Safety.lean ====
section
/-!
DEFINITION. The terms claims are stated in: repeated steps, the invariant of reachable states (10_state.md R31,
R35), and a single flipped bit of a packet (43_verifier.md R153).
-/

namespace Sys2Proof.Machine

/-- `k` steps of `f`, stopping at the first fault or refusal. -/
def runSteps (f : State → Result) : Nat → State → Result
  | 0, s => .next s
  | k + 1, s =>
    match f s with
    | .next t => runSteps f k t
    | .fault r => .fault r
    | .refused r => .refused r

/-- The engine's part of the invariant (R35): `crc` is the checksum of the absorbed elements, or is `8 - cnt`
shifts past the absorption of the last of them. -/
def EngineInv (bs : List Byte) (i n : Nat) (c : Word16) : Prop :=
  i ≤ bs.length ∧ n ≤ 8 ∧
  (n = 0 → c = crc16 (bs.take i)) ∧
  (0 < n → ∃ j b, i = j + 1 ∧ bs[j]? = some b ∧ c = shiftN (8 - n) (absorbByte (crc16 (bs.take j)) b))

/-- In BUSY the accepted SUBMIT has written every engine field (R31), and they agree (R35). -/
def BusyInv (s : State) : Prop :=
  ∃ o m i n c, s.op = some o ∧ s.buf = some m ∧ s.idx = some i ∧ s.cnt = some n ∧ s.crc = some c ∧
    EngineInv (Memory.bytes m) i n c

/-- A response held in DONE is the error, or the result of the latched operation on the whole buffer (R28, R85,
R105). -/
def DoneInv (s : State) : Prop :=
  s.resp = some (.err .invalidByteValue) ∨
  ∃ o m, s.op = some o ∧ s.buf = some m ∧
    s.resp = some (result o s.cfg.frameMode (Memory.bytes m) (crc16 (Memory.bytes m)))

/-- The invariant of reachable states. -/
structure State.Inv (s : State) : Prop where
  /-- The code 0b11 is never reached (R23). -/
  legalPhase : s.phase ≠ .unused
  /-- `resp` holds a response exactly in DONE (R28, R86). -/
  respInDone : s.resp.isSome = true ↔ s.phase = .done
  /-- The operand buffer is in canonical form (R40, log 8). -/
  bufCanonical : ∀ m, s.buf = some m → Memory.wf m = true
  /-- The operand buffer holds at most MAX_LEN elements (R20). -/
  bufFits : ∀ m, s.buf = some m → admits s.cfg (Memory.size m) = true
  /-- R35. -/
  busy : s.phase = .busy → BusyInv s
  /-- R28, R105. -/
  done : s.phase = .done → DoneInv s

/-- `q` is `p` with exactly one bit flipped: bit `k` of the byte at position `i` (R153). -/
def FlipsOneBit (p q : List Byte) : Prop :=
  ∃ i b, ∃ k : Fin 8, p[i]? = some b ∧ q = p.set i (b ^^^ BitVec.twoPow 8 k.val)

/-- The byte sequence as elements a host presents (R10). -/
def asElements (bs : List Byte) : List Int := bs.map fun b => (b.toNat : Int)

end Sys2Proof.Machine
end

