-- ==== Sys2Proof/WellFormed.lean ====
section
/-!
DEFINITION. The two checks on a command: every element is a byte value ("Each element MUST be constrained to
the range [0, 255]", 30_encoding.md R63), and DATA is no longer than MAX_LEN (00_scope.md R8). A command that
fails the first is still a command: SUBMIT answers it with an error (R82). One that fails the second is not
admitted (20_memory.md R47). No step calls these; they name the inputs a claim is about.
-/

namespace Sys2Proof

/-- Every element lies in [0, 255] (R63). -/
def Instr.elementsInRange (i : Instr) : Bool :=
  i.data.all fun e => decide (0 ≤ e) && decide (e ≤ 255)

/-- DATA is no longer than MAX_LEN (R8). -/
def Instr.fitsMaxLen (c : Config) (i : Instr) : Bool :=
  match c.maxLen with
  | none => true
  | some m => decide (i.data.length ≤ m)

/-- A command that the block accepts when it is idle (R81, R83). -/
def Instr.wellFormed (c : Config) (i : Instr) : Bool :=
  i.elementsInRange && i.fitsMaxLen c

end Sys2Proof
end

