-- ==== Sys2Proof/Certificates/Slice0/Obligations.lean ====
section
/-!
DEFINITION. The statements for the provers. Each docstring names the rules of spec/ it rests on, and the log
entry where a clause is the model's own.
-/

open Sys2Proof Sys2Proof.Machine

/-! ## Encoding -/

/-- R61, R62: the four OP values decode to the four operations, with DATA carried whole. -/
def Obligations.DecodeFollowsTheOpTable : Prop :=
  ∀ data : List Int,
    decode { cmd := 0b00#2, data := data } = .compute data ∧
    decode { cmd := 0b01#2, data := data } = .frame data ∧
    decode { cmd := 0b10#2, data := data } = .frameComplete data ∧
    decode { cmd := 0b11#2, data := data } = .verify data

/-- R60 to R62: decoding an encoded instruction gives it back, and encoding a decoded command gives it back. -/
def Obligations.DecodeAndEncodeAgree : Prop :=
  (∀ i : Instr, decode (encode i) = i) ∧ (∀ c : Command, encode (decode c) = c)

/-- R60, R62, R67: the table's words decode with an empty DATA, and a byte with a bit above bit 1 is no command
word (log 13, the model's reading of "CMD is exactly 2 bits wide"). -/
def Obligations.TableWordsDecode : Prop :=
  decodeTableWord 8 0 = some (.compute []) ∧ decodeTableWord 8 1 = some (.frame []) ∧
  decodeTableWord 8 2 = some (.frameComplete []) ∧ decodeTableWord 8 3 = some (.verify []) ∧
  ∀ w, 4 ≤ w → w < 256 → decodeTableWord 8 w = none

/-- R62, R67: every command word is an instance of exactly one row of the opcode table, the row with the
mnemonic of the instruction it decodes to. -/
def Obligations.OneTableRowCoversEachWord : Prop :=
  ∀ (cmd : BitVec 2) (data : List Int),
    (opcodeTable.filter fun r => r.covers cmd).map (fun r => r.mnemonic) =
      [mnemonic (decode { cmd := cmd, data := data })]

/-! ## Operand decoding and SUBMIT -/

/-- R63: DATA is captured as the bytes of the same values, and only where every element lies in [0, 255]. -/
def Obligations.DataIsCapturedExactly : Prop :=
  (∀ (data : List Int) (bs : List Byte), decodeData data = some bs ↔ data = asElements bs) ∧
  (∀ data : List Int, decodeData data = none ↔ ∃ e ∈ data, e < 0 ∨ 255 < e)

/-- R82: a SUBMIT with an invalid element, of any operation, wherever the element stands, writes the error
response and moves to DONE, and writes nothing else. -/
def Obligations.RejectedSubmitWritesOnlyTheError : Prop :=
  ∀ (i : Instr) (s : State), s.phase = .idle → admits s.cfg i.data.length = true →
    (∃ e ∈ i.data, e < 0 ∨ 255 < e) →
    exec i s = .next { s with resp := some (.err .invalidByteValue), phase := .done }

/-- R83: an accepted SUBMIT latches the operation and a copy of DATA, clears the counters, writes INIT to `crc`
and moves to BUSY, and writes nothing else. -/
def Obligations.AcceptedSubmitLatchesTheCommand : Prop :=
  ∀ (i : Instr) (bs : List Byte) (s : State), i.data = asElements bs → s.phase = .idle →
    admits s.cfg bs.length = true →
    exec i s = .next { s with
      op := some (opOf i), buf := some (Memory.ofBytes bs), idx := some 0, cnt := some 0, crc := some 0xFFFF#16, phase := .busy }

/-- R25, R40, R53: after an accepted SUBMIT a read of the operand buffer at any address is the element of DATA
at that index, and there is none past its end. -/
def Obligations.SubmitFillsTheOperandBuffer : Prop :=
  ∀ (i : Instr) (bs : List Byte) (s : State), i.data = asElements bs → s.phase = .idle →
    admits s.cfg bs.length = true →
    ∃ t m, exec i s = .next t ∧ t.buf = some m ∧ Memory.size m = bs.length ∧
      ∀ a, Memory.read m a = bs[a]?

/-- R81, R206, V55: a SUBMIT in BUSY or DONE holds, and no state changes (a hold as a step that changes
nothing: log 1, the model's). -/
def Obligations.SubmitHoldsOutsideIdle : Prop :=
  ∀ (i : Instr) (s : State), s.phase = .busy ∨ s.phase = .done → exec i s = .next s

/-- R47, R81: a SUBMIT longer than MAX_LEN has no step in any phase, whatever its elements (log 1, log 9). -/
def Obligations.OverlongSubmitIsNotAdmitted : Prop :=
  ∀ (i : Instr) (s : State) (m : Nat), s.phase ≠ .unused → s.cfg.maxLen = some m → m < i.data.length →
    exec i s = .next s

/-- R23, I8: a model that finds `phase = 0b11` faults: every SUBMIT does, and every step but one that takes the
host's RESET (log 7, the model's). -/
def Obligations.UnusedPhaseCodeFaults : Prop :=
  ∀ s : State, s.phase = .unused →
    (∀ i : Instr, exec i s = .fault .illegalPhase) ∧
    (s.script.head? ≠ some .reset → step s = .fault .illegalPhase)

/-- R63, R81: a well-formed command is accepted in IDLE, and one with an element out of range is answered with
the error: WellFormed says which. -/
def Obligations.WellFormedSaysWhatIsAccepted : Prop :=
  ∀ (i : Instr) (s : State), s.phase = .idle → i.fitsMaxLen s.cfg = true →
    (i.wellFormed s.cfg = true → ∃ t, exec i s = .next t ∧ t.phase = .busy) ∧
    (i.elementsInRange = false →
      ∃ t, exec i s = .next t ∧ t.phase = .done ∧ t.resp = some (.err .invalidByteValue))

/-! ## What each command answers -/

/-- R83, R88, R106: COMPUTE of bytes is accepted, and 9n + 1 BLOCK steps later the response is the checksum;
of the other state exactly the engine's fields have changed. -/
def Obligations.ComputeAnswersTheChecksum : Prop :=
  ∀ (bs : List Byte) (s : State), s.phase = .idle → admits s.cfg bs.length = true →
    ∃ t, exec (.compute (asElements bs)) s = .next t ∧
      t = { s with
        op := some .compute, buf := some (Memory.ofBytes bs), idx := some 0, cnt := some 0,
        crc := some 0xFFFF#16, phase := .busy } ∧
      runSteps blockStep (9 * bs.length + 1) t = .next { s with
        op := some .compute, buf := some (Memory.ofBytes bs), idx := some bs.length, cnt := some 0,
        crc := some (crc16 bs), phase := .done, resp := some (.ok (.value16 (crc16 bs))) }

/-- R83, R88, R132: FRAME of bytes answers the frame bytes of their checksum in 9n + 1 BLOCK steps. -/
def Obligations.FrameAnswersTheFrameBytes : Prop :=
  ∀ (bs : List Byte) (s : State), s.phase = .idle → admits s.cfg bs.length = true →
    ∃ t, exec (.frame (asElements bs)) s = .next t ∧
      t = { s with
        op := some .frame, buf := some (Memory.ofBytes bs), idx := some 0, cnt := some 0,
        crc := some 0xFFFF#16, phase := .busy } ∧
      runSteps blockStep (9 * bs.length + 1) t = .next { s with
        op := some .frame, buf := some (Memory.ofBytes bs), idx := some bs.length, cnt := some 0,
        crc := some (crc16 bs), phase := .done,
        resp := some (.ok (.bytes (frameBytes s.cfg.frameMode (crc16 bs)))) }

/-- R83, R88, R133: FRAME_COMPLETE of bytes answers them followed by the frame bytes of their checksum, in
9n + 1 BLOCK steps. -/
def Obligations.FrameCompleteAnswersThePacket : Prop :=
  ∀ (bs : List Byte) (s : State), s.phase = .idle → admits s.cfg bs.length = true →
    ∃ t, exec (.frameComplete (asElements bs)) s = .next t ∧
      t = { s with
        op := some .frameComplete, buf := some (Memory.ofBytes bs), idx := some 0, cnt := some 0,
        crc := some 0xFFFF#16, phase := .busy } ∧
      runSteps blockStep (9 * bs.length + 1) t = .next { s with
        op := some .frameComplete, buf := some (Memory.ofBytes bs), idx := some bs.length, cnt := some 0,
        crc := some (crc16 bs), phase := .done,
        resp := some (.ok (.bytes (bs ++ frameBytes s.cfg.frameMode (crc16 bs)))) }

/-- R83, R88, R150, R151: VERIFY of bytes answers whether their checksum is zero, in 9n + 1 BLOCK steps. -/
def Obligations.VerifyAnswersWhetherTheChecksumIsZero : Prop :=
  ∀ (bs : List Byte) (s : State), s.phase = .idle → admits s.cfg bs.length = true →
    ∃ t, exec (.verify (asElements bs)) s = .next t ∧
      t = { s with
        op := some .verify, buf := some (Memory.ofBytes bs), idx := some 0, cnt := some 0,
        crc := some 0xFFFF#16, phase := .busy } ∧
      runSteps blockStep (9 * bs.length + 1) t = .next { s with
        op := some .verify, buf := some (Memory.ofBytes bs), idx := some bs.length, cnt := some 0,
        crc := some (crc16 bs), phase := .done,
        resp := some (.ok (.flag (decide (crc16 bs = 0#16)))) }

/-! ## The step: hold, COLLECT, STATUS, RESET, the scheduler -/

/-- R81: where the host's next action is an enabled SUBMIT, a step runs the decoded instruction on the state
with that action taken off. -/
def Obligations.StepRunsTheSubmittedCommand : Prop :=
  ∀ (s : State) (c : Command) (rest : List HostAction), s.script = .submit c :: rest → s.phase = .idle →
    admits s.cfg c.data.length = true → step s = exec (decode c) { s with script := rest }

/-- Log 2 (the model's): a command word placed by `withFetchWord` is what the very next step runs, in the phase
in which SUBMIT is enabled. -/
def Obligations.PlacedWordRunsNext : Prop :=
  ∀ (s : State) (nbits w : Nat) (i : Instr), decodeTableWord nbits w = some i →
    step (s.withFetchWord nbits w) = exec i { s with phase := .idle }

/-- R86: COLLECT in DONE returns the response, OK or ERR alike, empties `resp` and moves to IDLE; in IDLE and
in BUSY it is not enabled, so in IDLE nothing happens and in BUSY the enabled BLOCK step runs, the COLLECT still
to come. In the state it leaves, a second COLLECT holds. That a hold is a step that changes nothing is the
model's (log 1). -/
def Obligations.CollectReturnsTheResponseOnce : Prop :=
  ∀ (s : State) (rest : List HostAction), s.script = .collect :: rest →
    (∀ r, s.phase = .done → s.resp = some r →
      step s = .next { s with
        script := rest, observed := s.observed ++ [.response r], resp := none, phase := .idle } ∧
      collect { s with resp := none, phase := .idle } = .next { s with resp := none, phase := .idle }) ∧
    (s.phase = .idle → step s = .next s) ∧
    (s.phase = .busy → blockReady s = true → step s = blockStep s)

/-- R30, R90, V50 to V53: a STATUS read gives 0x01 in IDLE, 0x02 in BUSY, 0x04 in DONE with an OK response and
0x0C in DONE with the error, and changes nothing but what the host has done and observed. Outside BUSY the step
takes it. -/
def Obligations.StatusReadGivesItsFourValues : Prop :=
  ∀ (s : State) (rest : List HostAction), s.script = .readStatus :: rest →
    (s.phase = .idle →
      hostStep s = .next { s with script := rest, observed := s.observed ++ [.status 0x01#8] }) ∧
    (s.phase = .busy →
      hostStep s = .next { s with script := rest, observed := s.observed ++ [.status 0x02#8] }) ∧
    (∀ p, s.phase = .done → s.resp = some (.ok p) →
      hostStep s = .next { s with script := rest, observed := s.observed ++ [.status 0x04#8] }) ∧
    (∀ c, s.phase = .done → s.resp = some (.err c) →
      hostStep s = .next { s with script := rest, observed := s.observed ++ [.status 0x0C#8] }) ∧
    (s.phase ≠ .busy → step s = hostStep s)

/-- R30: which bit of STATUS says what, and bits 7:4 read 0. -/
def Obligations.StatusBitsSayThePhase : Prop :=
  ∀ (s : State) (b : Byte), statusView s = .ok b →
    (b.getLsbD 0 = true ↔ s.phase = .idle) ∧
    (b.getLsbD 1 = true ↔ s.phase = .busy) ∧
    (b.getLsbD 2 = true ↔ s.phase = .done) ∧
    (b.getLsbD 3 = true ↔ s.phase = .done ∧ s.resp = some (.err .invalidByteValue)) ∧
    b.extractLsb' 4 4 = 0#4

/-- R30, R32: STATUS is computed from `phase` and `resp` alone: nothing else of the block shows in it. -/
def Obligations.StatusHidesTheEngine : Prop :=
  ∀ s t : State, s.phase = t.phase → s.resp = t.resp → statusView s = statusView t

/-- R200: RESET, in every phase, sets `phase` to IDLE and the six other fields to ⊥ in one step; STATUS then
reads 0x01, and SUBMIT is enabled at once. Outside BUSY the step takes it. That "every phase" takes in the
unused code 0b11 is the model's (log 7). -/
def Obligations.ResetClearsEveryField : Prop :=
  ∀ (s : State) (rest : List HostAction), s.script = .reset :: rest →
    ∃ t, hostStep s = .next t ∧
      t = { s with
        phase := .idle, op := none, buf := none, idx := none, cnt := none, crc := none, resp := none,
        script := rest } ∧
      statusView t = .ok 0x01#8 ∧ cmdReady t = true ∧ (s.phase ≠ .busy → step s = .next t)

/-- R201, R80: a RESET that the scheduler takes in BUSY abandons the transaction: the host observes nothing for
it, and no error. -/
def Obligations.ResetInBusyAbandonsTheTransaction : Prop :=
  ∀ (s : State) (rest : List HostAction) (later : List Agent), s.phase = .busy → blockReady s = true →
    s.script = .reset :: rest → s.schedule = .host :: later →
    step s = .next { s with
      phase := .idle, op := none, buf := none, idx := none, cnt := none, crc := none, resp := none,
      script := rest, schedule := later }

/-- R202: RESET in IDLE changes nothing a host can see: STATUS and the response stay, every command without
an invalid element is then taken to the same next state, and one with an invalid element gets the error. -/
def Obligations.ResetInIdleIsInvisible : Prop :=
  ∀ s : State, s.Inv → s.phase = .idle →
    statusView (resetBlock s) = statusView s ∧ (resetBlock s).resp = s.resp ∧
    (resetBlock s).observed = s.observed ∧
    (∀ (i : Instr) (bs : List Byte), i.data = asElements bs → admits s.cfg bs.length = true →
      exec i (resetBlock s) = exec i s) ∧
    (∀ i : Instr, (∃ e ∈ i.data, e < 0 ∨ 255 < e) → admits s.cfg i.data.length = true →
      ∃ t u, exec i s = .next t ∧ exec i (resetBlock s) = .next u ∧
        t.phase = .done ∧ u.phase = .done ∧
        t.resp = some (.err .invalidByteValue) ∧ u.resp = some (.err .invalidByteValue))

/-- R204, R205: whatever state the block is in, after RESET it is in the invariant. That RESET works from the
unused phase code 0b11 too is the model's (log 7). -/
def Obligations.ResetEstablishesTheInvariant : Prop :=
  ∀ s : State, (resetBlock s).Inv

/-- R33, R203: no step changes FRAME_MODE or MAX_LEN. -/
def Obligations.ConfigurationNeverChanges : Prop :=
  ∀ s t : State, step s = .next t → t.cfg = s.cfg

/-- R80: where the host's next action and a BLOCK step are both enabled, the scheduler may take either; past
the end of the schedule it takes one of them, and nothing says which (log 3). -/
def Obligations.SchedulerMayTakeEitherAgent : Prop :=
  ∀ s : State, hostReady s = true → blockReady s = true →
    (∀ later, step { s with schedule := .host :: later } = hostStep { s with schedule := later }) ∧
    (∀ later, step { s with schedule := .block :: later } = blockStep { s with schedule := later }) ∧
    (s.schedule = [] →
      step s = hostStep { s with draws := s.draws + 1 } ∨ step s = blockStep { s with draws := s.draws + 1 })

/-- R47, R87, R91, R206: with no action of either agent enabled, in every legal phase, nothing changes: the host
has nothing to do, or it waits with a SUBMIT in DONE (a deadlock), a COLLECT in IDLE, or a SUBMIT over MAX_LEN
in IDLE or DONE. A hold as a step that changes nothing is the model's (log 1), and so are that a SUBMIT over
MAX_LEN holds (log 9) and that BUSY with idx > len(buf) has no BLOCK step (log 11). -/
def Obligations.NothingEnabledNothingChanges : Prop :=
  ∀ s : State,
    (s.phase ≠ .unused → hostReady s = false → blockReady s = false → step s = .next s) ∧
    ((s.phase = .idle ∨ s.phase = .done) ∧ s.script = [] → step s = .next s) ∧
    (∀ c rest, s.phase = .done → s.script = .submit c :: rest → step s = .next s) ∧
    (∀ rest, s.phase = .idle → s.script = .collect :: rest → step s = .next s) ∧
    (∀ c rest m, (s.phase = .idle ∨ s.phase = .done) → s.script = .submit c :: rest →
      s.cfg.maxLen = some m → m < c.data.length → step s = .next s)

/-- R92: what the host observes grows only where a COLLECT was its next action in DONE, by the response held,
or where a STATUS read was, by the STATUS view; one at a time. -/
def Obligations.ObservationsComeFromCollectAndStatus : Prop :=
  ∀ s t : State, step s = .next t →
    t.observed = s.observed ∨
    (s.script.head? = some .collect ∧
      ∃ r, s.phase = .done ∧ s.resp = some r ∧ t.observed = s.observed ++ [.response r]) ∨
    (s.script.head? = some .readStatus ∧ ∃ b, statusView s = .ok b ∧ t.observed = s.observed ++ [.status b])

/-- R24, R25: `op` and `buf` are written only by a SUBMIT in IDLE and by RESET. -/
def Obligations.OperandAndOperationOnlyFromSubmit : Prop :=
  ∀ s t : State, step s = .next t →
    (t.op = s.op ∧ t.buf = s.buf) ∨
    (s.phase = .idle ∧ ∃ c, s.script.head? = some (.submit c)) ∨
    s.script.head? = some .reset

/-! ## The BLOCK's steps -/

/-- R84: in BUSY exactly one of ABSORB, SHIFT and FINISH is enabled, `cnt` and `idx` say which, and it is what
a BLOCK step does; in IDLE and DONE none is. That a step which is not enabled answers the same state is the
model's (log 1). -/
def Obligations.ExactlyOneBlockStepInBusy : Prop :=
  (∀ s : State, s.Inv → s.phase = .busy →
    ∃ n i m t, s.cnt = some n ∧ s.idx = some i ∧ s.buf = some m ∧ blockStep s = .next t ∧ t ≠ s ∧
      ((n = 0 ∧ i < Memory.size m ∧ absorb s = .next t ∧ shift s = .next s ∧ finish s = .next s) ∨
       (0 < n ∧ shift s = .next t ∧ absorb s = .next s ∧ finish s = .next s) ∨
       (n = 0 ∧ i = Memory.size m ∧ finish s = .next t ∧ absorb s = .next s ∧ shift s = .next s))) ∧
  (∀ s : State, s.phase = .idle ∨ s.phase = .done →
    blockStep s = .next s ∧ absorb s = .next s ∧ shift s = .next s ∧ finish s = .next s)

/-- R102: ABSORB XORs the next element into bits 7..0 of `crc`, leaves bits 15..8 unchanged, counts the element
and sets the 8 shifts; an element 0x00 leaves `crc` as it is and 0xFF inverts its bits 7..0. Where it is not
enabled it holds, as the same state: the model's (log 1). -/
def Obligations.AbsorbXorsTheNextElement : Prop :=
  (∀ (s : State) (i : Nat) (m : Memory) (c : Word16) (b : Byte), s.phase = .busy → s.cnt = some 0 →
    s.idx = some i → s.buf = some m → s.crc = some c → Memory.wf m = true → (Memory.bytes m)[i]? = some b →
    ∃ c', absorb s = .next { s with crc := some c', idx := some (i + 1), cnt := some 8 } ∧
      c'.extractLsb' 0 8 = c.extractLsb' 0 8 ^^^ b ∧ c'.extractLsb' 8 8 = c.extractLsb' 8 8 ∧
      (b = 0x00#8 → c' = c) ∧ (b = 0xFF#8 → c' = c ^^^ 0x00FF#16)) ∧
  (∀ s : State, (s.phase = .idle ∨ s.phase = .done) → absorb s = .next s) ∧
  (∀ (s : State) (n i : Nat) (m : Memory), s.phase = .busy → s.cnt = some n → s.idx = some i →
    s.buf = some m → ¬ (n = 0 ∧ i < Memory.size m) → absorb s = .next s)

/-- R103: SHIFT moves `crc` right by one bit, logically, XORs POLY in where a 1 was shifted out, and counts
down; its corner cases. Where it is not enabled it holds, as the same state: the model's (log 1). -/
def Obligations.ShiftDividesByOneBit : Prop :=
  (∀ (s : State) (n : Nat) (c : Word16), s.phase = .busy → s.cnt = some (n + 1) → s.crc = some c →
    shift s = .next { s with
      crc := some (if c.getLsbD 0 then (c >>> 1) ^^^ 0xA001#16 else c >>> 1), cnt := some n }) ∧
  (∀ s : State, s.phase = .idle ∨ s.phase = .done ∨ (s.phase = .busy ∧ s.cnt = some 0) → shift s = .next s) ∧
  (∀ c : Word16, c.getLsbD 0 = true → (shift1 c).getLsbD 15 = true) ∧
  shift1 0x0000#16 = 0x0000#16 ∧ shift1 0x0001#16 = 0xA001#16 ∧ shift1 0xFFFF#16 = 0xDFFE#16 ∧
  shift1 0x8000#16 = 0x4000#16

/-- R85: FINISH answers, for each operation, from the final `crc`, and moves to DONE; it never answers ERR.
Where it is not enabled it holds, as the same state: the model's (log 1). -/
def Obligations.FinishFormsTheResponse : Prop :=
  (∀ (s : State) (n i : Nat) (m : Memory),
    s.phase = .idle ∨ s.phase = .done ∨
      (s.phase = .busy ∧ s.cnt = some n ∧ s.idx = some i ∧ s.buf = some m ∧ ¬ (n = 0 ∧ i = Memory.size m)) →
    finish s = .next s) ∧
  ∀ (s : State) (m : Memory) (c : Word16), s.phase = .busy → s.cnt = some 0 →
    s.idx = some (Memory.size m) → s.buf = some m → s.crc = some c →
    (s.op = some .compute → finish s = .next { s with resp := some (.ok (.value16 c)), phase := .done }) ∧
    (s.op = some .frame →
      finish s = .next { s with resp := some (.ok (.bytes (frameBytes s.cfg.frameMode c))), phase := .done }) ∧
    (s.op = some .frameComplete →
      finish s = .next { s with
        resp := some (.ok (.bytes (Memory.bytes m ++ frameBytes s.cfg.frameMode c))), phase := .done }) ∧
    (s.op = some .verify →
      finish s = .next { s with
        resp := some (.ok (.flag ((frameBytes s.cfg.frameMode c).all fun b => b == 0#8))), phase := .done })

/-- R84, R85, R102, R103 (their "Writes"), R171: a BLOCK step leaves the operation, the operand buffer, the
configuration and everything of the host as they were, and a response it writes is OK. -/
def Obligations.BlockStepFrame : Prop :=
  ∀ s t : State, blockStep s = .next t →
    t.op = s.op ∧ t.buf = s.buf ∧ t.cfg = s.cfg ∧ t.script = s.script ∧ t.schedule = s.schedule ∧
    t.draws = s.draws ∧ t.observed = s.observed ∧
    (t.resp = s.resp ∨ ∃ p, t.resp = some (.ok p))

/-- R88: after an accepted SUBMIT of n elements every one of the first 9n BLOCK steps leaves the block in BUSY,
and the next one reaches DONE. -/
def Obligations.TransactionTakesNinePerElementPlusOne : Prop :=
  ∀ (i : Instr) (bs : List Byte) (s : State), i.data = asElements bs → s.phase = .idle →
    admits s.cfg bs.length = true →
    ∃ t, exec i s = .next t ∧
      (∀ k, k ≤ 9 * bs.length → ∃ u, runSteps blockStep k t = .next u ∧ u.phase = .busy) ∧
      (∃ u, runSteps blockStep (9 * bs.length + 1) t = .next u ∧ u.phase = .done)

/-! ## Invariants -/

/-- R34: the state after RESET is in the invariant. -/
def Obligations.InvariantAtReset : Prop := State.reset.Inv

/-- R20, R23, R28, R31, R35, R105: every step keeps the invariant: the phase code is legal, a response is held
exactly in DONE and is the right one, the operand buffer is canonical and within MAX_LEN, and in BUSY `crc` is
the checksum of what has been absorbed. -/
def Obligations.EveryStepKeepsTheInvariant : Prop :=
  ∀ s t : State, s.Inv → step s = .next t → t.Inv

/-- R31: no step from the invariant faults on ⊥ or on anything else. -/
def Obligations.NoStepFaultsFromTheInvariant : Prop :=
  ∀ s : State, s.Inv → ∃ t, step s = .next t

/-- R87, R91, R212: BUSY always ends, whatever the scheduler chooses: within the BLOCK steps that remain and
the host actions still to come. The spec rests this on weak fairness; that the host's coming actions are a finite
list, so that every schedule ends, is the model's (log 2). -/
def Obligations.BusyAlwaysEnds : Prop :=
  ∀ (s : State) (n i : Nat) (m : Memory), s.Inv → s.phase = .busy → s.cnt = some n → s.idx = some i →
    s.buf = some m →
    ∃ k t, k ≤ n + 9 * (Memory.size m - i) + 1 + s.script.length ∧ runSteps step k s = .next t ∧
      t.phase ≠ .busy

/-! ## Whole transactions -/

/-- R89 (with R71, R88, R90): a SUBMIT from IDLE followed by COLLECT, any number of STATUS reads between them and
the scheduler choosing as it will, returns `spec(OP, DATA)`, for every operation, every DATA and both frame
modes. 9n + 1 BLOCK steps run where DATA is valid and none where it is not. The reads give BUSY and from some
read on DONE; of an invalid DATA they give the error at once. The block is idle again and the host has moved on. -/
def Obligations.TransactionReturnsItsSpec : Prop :=
  ∀ (s : State) (c : Command) (reads : Nat) (rest : List HostAction), s.phase = .idle →
    s.script = .submit c :: (List.replicate reads .readStatus ++ .collect :: rest) →
    admits s.cfg c.data.length = true →
    ∃ early late t, early + late = reads ∧ (c.data.all validElement = false → early = 0) ∧
      runSteps step ((if c.data.all validElement then 9 * c.data.length + 3 else 2) + reads) s = .next t ∧
      t.observed = s.observed ++ List.replicate early (.status 0x02#8) ++
        List.replicate late (.status (if c.data.all validElement then 0x04#8 else 0x0C#8)) ++
        [.response (spec s.cfg.frameMode (opOf (decode c)) c.data)] ∧
      t.phase = .idle ∧ t.resp = none ∧ t.script = rest ∧ t.cfg = s.cfg

/-- R49, R101: the same command on the same DATA is answered by the same response, whatever the block held
before. -/
def Obligations.ResponseDependsOnlyOnTheCommand : Prop :=
  ∀ (s₁ s₂ : State) (i : Instr) (bs : List Byte), i.data = asElements bs →
    s₁.phase = .idle → s₂.phase = .idle → s₁.cfg = s₂.cfg → admits s₁.cfg bs.length = true →
    ∃ t₁ t₂ u₁ u₂, exec i s₁ = .next t₁ ∧ exec i s₂ = .next t₂ ∧
      runSteps blockStep (9 * bs.length + 1) t₁ = .next u₁ ∧
      runSteps blockStep (9 * bs.length + 1) t₂ = .next u₂ ∧
      u₁.resp = u₂.resp ∧ u₁.resp ≠ none

/-! ## The checksum, the frame bytes and the verifier -/

/-- R2: 0xA001 is the bit-reversal of 0x8005. -/
def Obligations.PolynomialIsReflected : Prop := crcPoly = (0x8005#16).reverse

/-- R107: (a) the empty sequence, (b) concatenation, (c) one shift is linear and `updateByte` is affine in both
arguments, (d) a nonzero register stays nonzero, (e) every value is below 2^16. -/
def Obligations.ChecksumLaws : Prop :=
  crc16 [] = 0xFFFF#16 ∧
  (∀ xs ys : List Byte, crc16 (xs ++ ys) = ys.foldl updateByte (crc16 xs)) ∧
  (∀ x y : Word16, shift1 (x ^^^ y) = shift1 x ^^^ shift1 y) ∧ shift1 0#16 = 0#16 ∧
  (∀ (x y : Word16) (a b : Byte), updateByte (x ^^^ y) (a ^^^ b) = updateByte x a ^^^ updateByte y b) ∧
  (∀ x : Word16, shift1 x = 0#16 ↔ x = 0#16) ∧
  (∀ bs : List Byte, (crc16 bs).toNat < 65536)

/-- R108: a byte at a time, by a table of 256 entries (`updateByte 0 x`), gives the bit-serial result. -/
def Obligations.TableDrivenUpdateAgrees : Prop :=
  ∀ (c : Word16) (b : Byte),
    updateByte c b = (c >>> 8) ^^^ updateByte 0#16 (c.extractLsb' 0 8 ^^^ b)

/-- R130, R131, R42, R46: the frame bytes are the low byte and then the high byte, the high byte left out in
VARIABLE when the checksum is at most 0xFF, and then the low byte is the whole checksum; in FIXED2 the high
byte is then 0x00. -/
def Obligations.FrameBytesAreLowThenHigh : Prop :=
  ∀ c : Word16,
    frameBytes .fixed2 c = [c.extractLsb' 0 8, c.extractLsb' 8 8] ∧
    (0xFF < c.toNat → frameBytes .variableLen c = [c.extractLsb' 0 8, c.extractLsb' 8 8]) ∧
    (c.toNat ≤ 0xFF → frameBytes .variableLen c = [c.extractLsb' 0 8] ∧ (c.extractLsb' 0 8).toNat = c.toNat ∧
      frameBytes .fixed2 c = [c.extractLsb' 0 8, 0x00#8])

/-- R134: how many frame bytes there are, and `c <= 0xFF` iff the high byte is zero. -/
def Obligations.FrameBytesLength : Prop :=
  ∀ c : Word16,
    (0xFF < c.toNat → (frameBytes .variableLen c).length = 2) ∧
    (c.toNat ≤ 0xFF → (frameBytes .variableLen c).length = 1) ∧
    (frameBytes .fixed2 c).length = 2 ∧
    (c.toNat ≤ 0xFF ↔ c.extractLsb' 8 8 = 0#8)

/-- R135: in both modes, the checksum over a payload followed by its frame bytes is zero. -/
def Obligations.FramedPacketHasChecksumZero : Prop :=
  ∀ (m : FrameMode) (p : List Byte), crc16 (p ++ frameBytes m (crc16 p)) = 0#16

/-- R136: in VARIABLE `[0xFF, 0xFF]` is the packet of `[]` and of `[0xFF]`; in FIXED2 a packet without its last
two bytes is its payload, so packets determine payloads. -/
def Obligations.PacketsDeterminePayloadsOnlyInFixed2 : Prop :=
  spec .variableLen .frameComplete [] = .ok (.bytes [0xFF#8, 0xFF#8]) ∧
  spec .variableLen .frameComplete [255] = .ok (.bytes [0xFF#8, 0xFF#8]) ∧
  ∀ (p : List Byte),
    ∃ packet, spec .fixed2 .frameComplete (asElements p) = .ok (.bytes packet) ∧
      packet.take (packet.length - 2) = p

/-- R151: in both modes, VERIFY's answer is whether the checksum is zero. -/
def Obligations.VerifyIsChecksumZero : Prop :=
  ∀ (m : FrameMode) (bs : List Byte),
    spec m .verify (asElements bs) = .ok (.flag (decide (crc16 bs = 0#16)))

/-- R152: the packet that FRAME_COMPLETE answers is one that VERIFY accepts, run on the machine: for every
payload, from any idle state that admits it. -/
def Obligations.VerifyAcceptsEveryFramedPacket : Prop :=
  ∀ (p : List Byte) (s : State), s.phase = .idle →
    admits s.cfg (p ++ frameBytes s.cfg.frameMode (crc16 p)).length = true →
    ∃ t u, exec (.verify (asElements (p ++ frameBytes s.cfg.frameMode (crc16 p)))) s = .next t ∧
      runSteps blockStep (9 * (p ++ frameBytes s.cfg.frameMode (crc16 p)).length + 1) t = .next u ∧
      u.phase = .done ∧ u.resp = some (.ok (.flag true))

/-- R210: the modes make different packets and agree on VERIFY: a packet framed in either verifies in either,
and COMPUTE and VERIFY do not depend on the mode. -/
def Obligations.FrameModesAgreeOnVerify : Prop :=
  (∀ (m m' : FrameMode) (p : List Byte),
    spec m' .verify (asElements (p ++ frameBytes m (crc16 p))) = .ok (.flag true)) ∧
  (∀ (m m' : FrameMode) (data : List Int),
    spec m .verify data = spec m' .verify data ∧ spec m .compute data = spec m' .compute data) ∧
  (∃ data, spec .variableLen .frame data ≠ spec .fixed2 .frame data ∧
    spec .variableLen .frameComplete data ≠ spec .fixed2 .frameComplete data)

/-- R153: flip exactly one bit of a framed packet, anywhere, and VERIFY answers false, in both modes. -/
def Obligations.SingleBitFlipIsDetected : Prop :=
  ∀ (m : FrameMode) (p q : List Byte), FlipsOneBit (p ++ frameBytes m (crc16 p)) q →
    spec m .verify (asElements q) = .ok (.flag false)

/-- R155, V42: not every error of more than one bit is detected: the spec's 4-bit error passes. -/
def Obligations.OneFourBitErrorPasses : Prop :=
  List.zipWith (fun a b => a ^^^ b) [0xFF#8, 0xFE#8, 0xC1#8, 0xC0#8] [0x00#8, 0x03#8, 0x40#8, 0x01#8] =
    [0xFF#8, 0xFD#8, 0x81#8, 0xC1#8] ∧
  spec .variableLen .verify [0xFF, 0xFD, 0x81, 0xC1] = .ok (.flag true) ∧
  spec .variableLen .verify [0xFF, 0xFE, 0xC1, 0xC0] = .ok (.flag true)

/-- R106, R132, R133, R150, R171 (their examples, V1, V3, V4, V7, V8, V9, V30, V31): the source's own values. -/
def Obligations.SourceExamplesHold : Prop :=
  spec .variableLen .compute [0xFF, 0xFE] = .ok (.value16 0xC0C1#16) ∧
  spec .variableLen .compute [] = .ok (.value16 0xFFFF#16) ∧
  spec .variableLen .compute [256] = .err .invalidByteValue ∧
  spec .variableLen .compute [-1] = .err .invalidByteValue ∧
  spec .variableLen .frame [0xFF, 0xFE] = .ok (.bytes [0xC1#8, 0xC0#8]) ∧
  spec .variableLen .frameComplete [0xFF, 0xFE] = .ok (.bytes [0xFF#8, 0xFE#8, 0xC1#8, 0xC0#8]) ∧
  spec .variableLen .verify [0xFF, 0xFE, 0xC1, 0xC0] = .ok (.flag true) ∧
  spec .variableLen .verify [] = .ok (.flag false)
end

