-- ==== Sys2Proof/Laws/Ops.lean ====
section
/-!
SUPPORT. What each shared operation can do, said once: the operand buffer's laws (every operation that makes a
buffer gives the canonical form, and a read of a canonical buffer is an element of its byte sequence), and one
inversion lemma for each operation over the state.
-/

namespace Sys2Proof.Machine

/-! ## The operand buffer -/

@[simp] theorem Memory.cellsFrom_bytes (i : Nat) (bs : List Byte) :
    Memory.bytes (Memory.cellsFrom i bs) = bs := by
  induction bs generalizing i with
  | nil => rfl
  | cons b bs ih => simpa [Memory.bytes, Memory.cellsFrom] using ih (i + 1)

@[simp] theorem Memory.ofBytes_bytes (bs : List Byte) : Memory.bytes (Memory.ofBytes bs) = bs :=
  Memory.cellsFrom_bytes 0 bs

theorem Memory.size_eq_length_bytes (m : Memory) : Memory.size m = (Memory.bytes m).length := by
  simp [Memory.size, Memory.bytes]

@[simp] theorem Memory.ofBytes_size (bs : List Byte) : Memory.size (Memory.ofBytes bs) = bs.length := by
  rw [Memory.size_eq_length_bytes, Memory.ofBytes_bytes]

theorem Memory.cellsFrom_wfFrom (i : Nat) (bs : List Byte) :
    Memory.wfFrom i (Memory.cellsFrom i bs) = true := by
  induction bs generalizing i with
  | nil => rfl
  | cons b bs ih => simp [Memory.wfFrom, Memory.cellsFrom, ih]

/-- The one operation that makes a buffer gives the canonical form. -/
@[simp] theorem Memory.ofBytes_wf (bs : List Byte) : Memory.wf (Memory.ofBytes bs) = true :=
  Memory.cellsFrom_wfFrom 0 bs

theorem Memory.eq_cellsFrom_of_wfFrom {i : Nat} {m : Memory} (h : Memory.wfFrom i m = true) :
    m = Memory.cellsFrom i (Memory.bytes m) := by
  induction m generalizing i with
  | nil => rfl
  | cons c m ih =>
    obtain ⟨a, b⟩ := c
    simp only [Memory.wfFrom, Bool.and_eq_true, decide_eq_true_eq] at h
    obtain ⟨rfl, h⟩ := h
    exact congrArg _ (ih h)

/-- Two canonical buffers with the same byte sequence are equal data. -/
theorem Memory.eq_ofBytes_of_wf {m : Memory} (h : Memory.wf m = true) :
    m = Memory.ofBytes (Memory.bytes m) :=
  Memory.eq_cellsFrom_of_wfFrom h

theorem Memory.cellsFrom_read_below {i k : Nat} (bs : List Byte) (h : k < i) :
    Memory.read (Memory.cellsFrom i bs) k = none := by
  induction bs generalizing i with
  | nil => rfl
  | cons b bs ih =>
    simp only [Memory.cellsFrom, Memory.read]
    rw [if_neg (by omega), ih (by omega)]

theorem Memory.cellsFrom_read (i k : Nat) (bs : List Byte) :
    Memory.read (Memory.cellsFrom i bs) (i + k) = bs[k]? := by
  induction bs generalizing i k with
  | nil => rfl
  | cons b bs ih =>
    simp only [Memory.cellsFrom, Memory.read]
    cases k with
    | zero => simp
    | succ k =>
      rw [if_neg (by omega), show i + (k + 1) = i + 1 + k by omega, ih]
      simp

/-- `MemRead(i, 1)` of a captured byte sequence is its element i (R40). -/
@[simp] theorem Memory.ofBytes_read (bs : List Byte) (i : Nat) :
    Memory.read (Memory.ofBytes bs) i = bs[i]? := by
  have h := Memory.cellsFrom_read 0 i bs
  rwa [Nat.zero_add] at h

theorem Memory.read_of_wf {m : Memory} (h : Memory.wf m = true) (i : Nat) :
    Memory.read m i = (Memory.bytes m)[i]? := by
  conv_lhs => rw [Memory.eq_ofBytes_of_wf h]
  exact Memory.ofBytes_read _ i

/-! ## Reading a field, waiting, and the phase conditions -/

@[simp] theorem readField_some {α : Type} (v : α) (f : Field) (k : α → Result) :
    readField (some v) f k = k v := rfl

@[simp] theorem readField_none {α : Type} (f : Field) (k : α → Result) :
    readField none f k = .fault (.noValue f) := rfl

theorem readField_next {α : Type} {x : Option α} {f : Field} {k : α → Result} {t : State}
    (h : readField x f k = .next t) : ∃ v, x = some v ∧ k v = .next t := by
  cases x with
  | none => simp at h
  | some v => exact ⟨v, rfl, h⟩

@[simp] theorem hold_eq (s : State) : hold s = .next s := rfl

theorem whenPhase_same {p : Phase} {s : State} (h : s.phase = p) (hp : p ≠ .unused) (k : Result) :
    whenPhase p s k = k := by
  simp [whenPhase, h, hp]

theorem whenPhase_other {p : Phase} {s : State} (h : s.phase ≠ p) (hu : s.phase ≠ .unused) (k : Result) :
    whenPhase p s k = .next s := by
  simp [whenPhase, h, hu]

theorem whenPhase_unused {p : Phase} {s : State} (h : s.phase = .unused) (k : Result) :
    whenPhase p s k = .fault .illegalPhase := by
  simp [whenPhase, h]

theorem whenPhase_next {p : Phase} {s t : State} {k : Result} (h : whenPhase p s k = .next t) :
    (s.phase = p ∧ k = .next t) ∨ (s.phase ≠ p ∧ t = s) := by
  unfold whenPhase at h
  split at h
  · cases h
  · split at h
    · exact .inl ⟨‹_›, h⟩
    · exact .inr ⟨‹_›, by simpa using h.symm⟩

/-! ## The operations of the protocol -/

theorem collect_next {s t : State} (h : collect s = .next t) :
    (∃ r, s.phase = .done ∧ s.resp = some r ∧
      t = { s with observed := s.observed ++ [.response r], resp := none, phase := .idle }) ∨
    (s.phase ≠ .done ∧ t = s) := by
  obtain ⟨hp, h⟩ | ⟨hp, rfl⟩ := whenPhase_next h
  · obtain ⟨r, hr, h⟩ := readField_next h
    exact .inl ⟨r, hp, hr, by simpa using h.symm⟩
  · exact .inr ⟨hp, rfl⟩

theorem readStatus_next {s t : State} (h : readStatus s = .next t) :
    ∃ b, statusView s = .ok b ∧ t = { s with observed := s.observed ++ [.status b] } := by
  unfold readStatus at h
  split at h
  · exact ⟨_, ‹_›, by simpa using h.symm⟩
  · cases h

/-- Everything a SUBMIT that answers a next state can have done (R81 to R83). -/
theorem submit_next {o : Op} {data : List Int} {s t : State} (h : submit o data s = .next t) :
    (∃ bs, s.phase = .idle ∧ admits s.cfg data.length = true ∧ decodeData data = some bs ∧
      t = accept o bs s) ∨
    (s.phase = .idle ∧ admits s.cfg data.length = true ∧ decodeData data = none ∧
      t = { s with resp := some (.err .invalidByteValue), phase := .done }) ∨
    ((s.phase ≠ .idle ∨ admits s.cfg data.length = false) ∧ t = s) := by
  obtain ⟨hp, h⟩ | ⟨hp, rfl⟩ := whenPhase_next h
  · split at h
    · split at h
      · exact .inr (.inl ⟨hp, ‹_›, ‹_›, by simpa [raiseInvalidByteValue] using h.symm⟩)
      · exact .inl ⟨_, hp, ‹_›, ‹_›, by simpa using h.symm⟩
    · rename_i ha
      exact .inr (.inr ⟨.inr (Bool.eq_false_iff.mpr ha), by simpa using h.symm⟩)
  · exact .inr (.inr ⟨.inl hp, rfl⟩)

/-! ## Operands -/

theorem decodeData_some {data : List Int} {bs : List Byte} (h : decodeData data = some bs) :
    (∀ e ∈ data, validElement e = true) ∧ bs = data.map toByte := by
  unfold decodeData at h
  split at h
  · exact ⟨List.all_eq_true.mp ‹_›, by simpa using h.symm⟩
  · cases h

/-- WellFormed's element check is the one SUBMIT makes (R63). -/
theorem elementsInRange_eq (i : Instr) : i.elementsInRange = i.data.all validElement := rfl

/-- WellFormed's length check is the one SUBMIT makes (R47). -/
theorem fitsMaxLen_eq (c : Config) (i : Instr) : i.fitsMaxLen c = admits c i.data.length := rfl

@[simp] theorem validElement_byte (b : Byte) : validElement (b.toNat : Int) = true := by
  have := b.isLt
  simp [validElement]
  omega

@[simp] theorem toByte_byte (b : Byte) : toByte (b.toNat : Int) = b := by
  simp [toByte]

end Sys2Proof.Machine
end

