-- ==== Sys2Proof/Laws/State.lean ====
section
/-!
SUPPORT. One lemma per field for each named update of the state: an accepted SUBMIT (R83), RESET (R200), the
scheduler's choice and the placing of a command.
-/

namespace Sys2Proof.Machine

@[simp] theorem accept_phase (o : Op) (bs : List Byte) (s : State) : (accept o bs s).phase = .busy := rfl
@[simp] theorem accept_op (o : Op) (bs : List Byte) (s : State) : (accept o bs s).op = some o := rfl
@[simp] theorem accept_buf (o : Op) (bs : List Byte) (s : State) : (accept o bs s).buf = some (Memory.ofBytes bs) := rfl
@[simp] theorem accept_idx (o : Op) (bs : List Byte) (s : State) : (accept o bs s).idx = some 0 := rfl
@[simp] theorem accept_cnt (o : Op) (bs : List Byte) (s : State) : (accept o bs s).cnt = some 0 := rfl
@[simp] theorem accept_crc (o : Op) (bs : List Byte) (s : State) : (accept o bs s).crc = some crcInit := rfl
@[simp] theorem accept_resp (o : Op) (bs : List Byte) (s : State) : (accept o bs s).resp = s.resp := rfl
@[simp] theorem accept_cfg (o : Op) (bs : List Byte) (s : State) : (accept o bs s).cfg = s.cfg := rfl
@[simp] theorem accept_script (o : Op) (bs : List Byte) (s : State) : (accept o bs s).script = s.script := rfl
@[simp] theorem accept_schedule (o : Op) (bs : List Byte) (s : State) : (accept o bs s).schedule = s.schedule := rfl
@[simp] theorem accept_draws (o : Op) (bs : List Byte) (s : State) : (accept o bs s).draws = s.draws := rfl
@[simp] theorem accept_observed (o : Op) (bs : List Byte) (s : State) : (accept o bs s).observed = s.observed := rfl

@[simp] theorem resetBlock_phase (s : State) : (resetBlock s).phase = .idle := rfl
@[simp] theorem resetBlock_op (s : State) : (resetBlock s).op = none := rfl
@[simp] theorem resetBlock_buf (s : State) : (resetBlock s).buf = none := rfl
@[simp] theorem resetBlock_idx (s : State) : (resetBlock s).idx = none := rfl
@[simp] theorem resetBlock_cnt (s : State) : (resetBlock s).cnt = none := rfl
@[simp] theorem resetBlock_crc (s : State) : (resetBlock s).crc = none := rfl
@[simp] theorem resetBlock_resp (s : State) : (resetBlock s).resp = none := rfl
@[simp] theorem resetBlock_cfg (s : State) : (resetBlock s).cfg = s.cfg := rfl
@[simp] theorem resetBlock_script (s : State) : (resetBlock s).script = s.script := rfl
@[simp] theorem resetBlock_schedule (s : State) : (resetBlock s).schedule = s.schedule := rfl
@[simp] theorem resetBlock_draws (s : State) : (resetBlock s).draws = s.draws := rfl
@[simp] theorem resetBlock_observed (s : State) : (resetBlock s).observed = s.observed := rfl

@[simp] theorem placeCommand_op (s : State) (c : Command) : (placeCommand s c).op = s.op := rfl
@[simp] theorem placeCommand_buf (s : State) (c : Command) : (placeCommand s c).buf = s.buf := rfl
@[simp] theorem placeCommand_idx (s : State) (c : Command) : (placeCommand s c).idx = s.idx := rfl
@[simp] theorem placeCommand_cnt (s : State) (c : Command) : (placeCommand s c).cnt = s.cnt := rfl
@[simp] theorem placeCommand_crc (s : State) (c : Command) : (placeCommand s c).crc = s.crc := rfl
@[simp] theorem placeCommand_resp (s : State) (c : Command) : (placeCommand s c).resp = s.resp := rfl
@[simp] theorem placeCommand_cfg (s : State) (c : Command) : (placeCommand s c).cfg = s.cfg := rfl
@[simp] theorem placeCommand_schedule (s : State) (c : Command) : (placeCommand s c).schedule = s.schedule := rfl
@[simp] theorem placeCommand_draws (s : State) (c : Command) : (placeCommand s c).draws = s.draws := rfl
@[simp] theorem placeCommand_observed (s : State) (c : Command) : (placeCommand s c).observed = s.observed := rfl
@[simp] theorem placeCommand_phase (s : State) (c : Command) : (placeCommand s c).phase = .idle := rfl
@[simp] theorem placeCommand_script (s : State) (c : Command) : (placeCommand s c).script = .submit c :: s.script := rfl

@[simp] theorem chooseAgent_phase (s : State) : (chooseAgent s).2.phase = s.phase := by
  unfold chooseAgent; split <;> rfl
@[simp] theorem chooseAgent_op (s : State) : (chooseAgent s).2.op = s.op := by
  unfold chooseAgent; split <;> rfl
@[simp] theorem chooseAgent_buf (s : State) : (chooseAgent s).2.buf = s.buf := by
  unfold chooseAgent; split <;> rfl
@[simp] theorem chooseAgent_idx (s : State) : (chooseAgent s).2.idx = s.idx := by
  unfold chooseAgent; split <;> rfl
@[simp] theorem chooseAgent_cnt (s : State) : (chooseAgent s).2.cnt = s.cnt := by
  unfold chooseAgent; split <;> rfl
@[simp] theorem chooseAgent_crc (s : State) : (chooseAgent s).2.crc = s.crc := by
  unfold chooseAgent; split <;> rfl
@[simp] theorem chooseAgent_resp (s : State) : (chooseAgent s).2.resp = s.resp := by
  unfold chooseAgent; split <;> rfl
@[simp] theorem chooseAgent_cfg (s : State) : (chooseAgent s).2.cfg = s.cfg := by
  unfold chooseAgent; split <;> rfl
@[simp] theorem chooseAgent_script (s : State) : (chooseAgent s).2.script = s.script := by
  unfold chooseAgent; split <;> rfl
@[simp] theorem chooseAgent_observed (s : State) : (chooseAgent s).2.observed = s.observed := by
  unfold chooseAgent; split <;> rfl

theorem chooseAgent_of_schedule {s : State} {a : Agent} {rest : List Agent} (h : s.schedule = a :: rest) :
    chooseAgent s = (a, { s with schedule := rest }) := by
  simp [chooseAgent, h]

theorem chooseAgent_past_schedule {s : State} (h : s.schedule = []) :
    chooseAgent s = (Config.freeAgent s.draws, { s with draws := s.draws + 1 }) := by
  simp [chooseAgent, h]

end Sys2Proof.Machine
end

