-- ==== Sys2Proof/Laws/Block.lean ====
section
/-!
SUPPORT. What each BLOCK step can do, said once, and the small lemmas of the engine's functions and of
repeated steps.
-/

namespace Sys2Proof.Machine

/-! ## The engine's functions -/

@[simp] theorem shiftN_zero (c : Word16) : shiftN 0 c = c := rfl

theorem shiftN_succ (n : Nat) (c : Word16) : shiftN (n + 1) c = shift1 (shiftN n c) := by
  induction n generalizing c with
  | zero => rfl
  | succ n ih => exact ih (shift1 c)

theorem crc16_snoc (bs : List Byte) (b : Byte) : crc16 (bs ++ [b]) = updateByte (crc16 bs) b := by
  simp [crc16, List.foldl_append]

/-! ## Block steps -/

theorem absorb_next {s t : State} (h : absorb s = .next t) :
    (∃ i m c b, s.phase = .busy ∧ s.cnt = some 0 ∧ s.idx = some i ∧ s.buf = some m ∧ s.crc = some c ∧
      i < Memory.size m ∧ Memory.read m i = some b ∧
      t = { s with crc := some (absorbByte c b), idx := some (i + 1), cnt := some 8 }) ∨ t = s := by
  obtain ⟨hp, h⟩ | ⟨-, rfl⟩ := whenPhase_next h
  · obtain ⟨n, hn, h₁⟩ := readField_next h
    obtain ⟨i, hi, h₂⟩ := readField_next h₁
    obtain ⟨m, hm, h₃⟩ := readField_next h₂
    clear h h₁ h₂
    split at h₃
    · rename_i hc
      obtain ⟨rfl, hlt⟩ := hc
      obtain ⟨c, hcr, h⟩ := readField_next h₃
      split at h
      · exact .inl ⟨i, m, c, _, hp, hn, hi, hm, hcr, hlt, ‹_›, by simpa using h.symm⟩
      · cases h
    · exact .inr (by simpa using h₃.symm)
  · exact .inr rfl

theorem shift_next {s t : State} (h : shift s = .next t) :
    (∃ n c, s.phase = .busy ∧ s.cnt = some (n + 1) ∧ s.crc = some c ∧
      t = { s with crc := some (shift1 c), cnt := some n }) ∨ t = s := by
  obtain ⟨hp, h⟩ | ⟨-, rfl⟩ := whenPhase_next h
  · obtain ⟨n, hn, h⟩ := readField_next h
    cases n with
    | zero => exact .inr (by simpa using h.symm)
    | succ n =>
      rw [if_pos (by omega)] at h
      obtain ⟨c, hc, h⟩ := readField_next h
      exact .inl ⟨n, c, hp, hn, hc, by simpa using h.symm⟩
  · exact .inr rfl

theorem finish_next {s t : State} (h : finish s = .next t) :
    (∃ m o c, s.phase = .busy ∧ s.cnt = some 0 ∧ s.idx = some (Memory.size m) ∧ s.buf = some m ∧
      s.op = some o ∧ s.crc = some c ∧
      t = { s with resp := some (result o s.cfg.frameMode (Memory.bytes m) c), phase := .done }) ∨ t = s := by
  obtain ⟨hp, h⟩ | ⟨-, rfl⟩ := whenPhase_next h
  · obtain ⟨n, hn, h₁⟩ := readField_next h
    obtain ⟨i, hi, h₂⟩ := readField_next h₁
    obtain ⟨m, hm, h₃⟩ := readField_next h₂
    clear h h₁ h₂
    split at h₃
    · rename_i hc
      obtain ⟨rfl, rfl⟩ := hc
      obtain ⟨o, ho, h₄⟩ := readField_next h₃
      obtain ⟨c, hcr, h⟩ := readField_next h₄
      exact .inl ⟨m, o, c, hp, hn, hi, hm, ho, hcr, by simpa using h.symm⟩
    · exact .inr (by simpa using h₃.symm)
  · exact .inr rfl

/-- A BLOCK step is ABSORB, SHIFT or FINISH, or nothing is enabled (R84). -/
theorem blockStep_next {s t : State} (h : blockStep s = .next t) :
    absorb s = .next t ∨ shift s = .next t ∨ finish s = .next t ∨ t = s := by
  obtain ⟨-, h⟩ | ⟨-, rfl⟩ := whenPhase_next h
  · obtain ⟨n, -, h⟩ := readField_next h
    split at h
    · exact .inr (.inl h)
    · obtain ⟨i, -, h⟩ := readField_next h
      obtain ⟨m, -, h⟩ := readField_next h
      split at h
      · exact .inl h
      · split at h
        · exact .inr (.inr (.inl h))
        · exact .inr (.inr (.inr (by simpa using h.symm)))
  · exact .inr (.inr (.inr rfl))

theorem blockStep_shift {s : State} {n : Nat} {c : Word16} (hp : s.phase = .busy) (hn : s.cnt = some (n + 1))
    (hc : s.crc = some c) :
    blockStep s = .next { s with crc := some (shift1 c), cnt := some n } := by
  simp [blockStep, shift, whenPhase, hp, hn, hc]

theorem blockStep_absorb {s : State} {i : Nat} {m : Memory} {c : Word16} {b : Byte} (hp : s.phase = .busy)
    (hn : s.cnt = some 0) (hi : s.idx = some i) (hm : s.buf = some m) (hc : s.crc = some c)
    (hlt : i < Memory.size m) (hb : Memory.read m i = some b) :
    blockStep s = .next { s with crc := some (absorbByte c b), idx := some (i + 1), cnt := some 8 } := by
  simp [blockStep, absorb, whenPhase, hp, hn, hi, hm, hc, hlt, hb]

theorem blockStep_finish {s : State} {m : Memory} {o : Op} {c : Word16} (hp : s.phase = .busy)
    (hn : s.cnt = some 0) (hi : s.idx = some (Memory.size m)) (hm : s.buf = some m) (ho : s.op = some o)
    (hc : s.crc = some c) :
    blockStep s = .next { s with
      resp := some (result o s.cfg.frameMode (Memory.bytes m) c), phase := .done } := by
  simp [blockStep, finish, whenPhase, hp, hn, hi, hm, ho, hc]

/-! ## Repeated steps -/

@[simp] theorem runSteps_zero (f : State → Result) (s : State) : runSteps f 0 s = .next s := rfl

theorem runSteps_succ {f : State → Result} {s t : State} (h : f s = .next t) (k : Nat) :
    runSteps f (k + 1) s = runSteps f k t := by
  simp [runSteps, h]

theorem runSteps_add {f : State → Result} {j : Nat} {s t : State} (h : runSteps f j s = .next t) (k : Nat) :
    runSteps f (j + k) s = runSteps f k t := by
  induction j generalizing s with
  | zero => cases h; simp
  | succ j ih =>
    rw [show j + 1 + k = j + k + 1 by omega]
    simp only [runSteps] at h ⊢
    split at h
    · exact ih h
    · cases h
    · cases h

end Sys2Proof.Machine
end

