-- ==== Sys2Proof/Laws/PerInstr.lean ====
section
/-!
SUPPORT. Per-instruction law OpcodeRow: the word of an instruction is an instance of the one row of the opcode
table (30_encoding.md R67) that carries its mnemonic, and its DATA is carried whole.
-/

namespace Sys2Proof.Laws.OpcodeRow

/-- The rows that cover the instruction's word are exactly the row of its mnemonic. -/
def Statement (i : Instr) : Prop :=
  (opcodeTable.filter fun r => r.covers (encode i).cmd).map (fun r => r.mnemonic) = [mnemonic i] ∧
    (encode i).data = i.data

theorem compute (data : List Int) : Statement (.compute data) :=
  ⟨show (opcodeTable.filter fun r => r.covers opCompute).map (fun r => r.mnemonic) = ["COMPUTE"] by decide, rfl⟩

theorem frame (data : List Int) : Statement (.frame data) :=
  ⟨show (opcodeTable.filter fun r => r.covers opFrame).map (fun r => r.mnemonic) = ["FRAME"] by decide, rfl⟩

theorem frameComplete (data : List Int) : Statement (.frameComplete data) :=
  ⟨show (opcodeTable.filter fun r => r.covers opFrameComplete).map (fun r => r.mnemonic) = ["FRAME_COMPLETE"] by
    decide, rfl⟩

theorem verify (data : List Int) : Statement (.verify data) :=
  ⟨show (opcodeTable.filter fun r => r.covers opVerify).map (fun r => r.mnemonic) = ["VERIFY"] by decide, rfl⟩

end Sys2Proof.Laws.OpcodeRow
end

