-- ==== Sys2Proof/Laws/Step.lean ====
section
/-!
SUPPORT. What one step of the machine can do, said once: the scheduler takes the host's action, a BLOCK step,
or nothing. Every later invariant is a case analysis over these lemmas.
-/

namespace Sys2Proof.Machine

/-- Each meaning is the SUBMIT of its operation (log 10). -/
theorem exec_eq_submit (i : Instr) (s : State) : exec i s = submit (opOf i) i.data s := by
  cases i <;> rfl

theorem step_host {s : State} (hh : hostReady s = true) (hb : blockReady s = false) :
    step s = hostStep s := by
  simp [step, schedulerStep, hh, hb]

theorem step_block {s : State} (hh : hostReady s = false) (hb : blockReady s = true) :
    step s = blockStep s := by
  simp [step, schedulerStep, hh, hb]

theorem step_wait {s : State} (hh : hostReady s = false) (hb : blockReady s = false) :
    step s = waitStep s := by
  simp [step, schedulerStep, hh, hb]

theorem step_choice {s : State} (hh : hostReady s = true) (hb : blockReady s = true) :
    step s = (match (chooseAgent s).1 with
      | .host => hostStep (chooseAgent s).2
      | .block => blockStep (chooseAgent s).2) := by
  simp only [step, schedulerStep, hh, hb]
  rcases chooseAgent s with ⟨a, t⟩
  cases a <;> rfl

/-- A step is the host's action or a BLOCK step, at the state itself or at the state the scheduler's choice
left, or it waits. -/
theorem step_cases (s : State) :
    ((step s = hostStep s ∧ hostReady s = true ∧ blockReady s = false) ∨
     (step s = blockStep s ∧ hostReady s = false ∧ blockReady s = true)) ∨
    ((step s = hostStep (chooseAgent s).2 ∨ step s = blockStep (chooseAgent s).2) ∧
      hostReady s = true ∧ blockReady s = true) ∨
    (step s = waitStep s ∧ hostReady s = false ∧ blockReady s = false) := by
  cases hh : hostReady s <;> cases hb : blockReady s
  · exact .inr (.inr ⟨step_wait hh hb, rfl, rfl⟩)
  · exact .inl (.inr ⟨step_block hh hb, rfl, rfl⟩)
  · exact .inl (.inl ⟨step_host hh hb, rfl, rfl⟩)
  · refine .inr (.inl ⟨?_, rfl, rfl⟩)
    rw [step_choice hh hb]
    cases (chooseAgent s).1
    · exact .inl rfl
    · exact .inr rfl

/-- Everything the host's action can have done (R81, R86, R90, R200). -/
theorem hostStep_next {s t : State} (h : hostStep s = .next t) :
    (s.script = [] ∧ t = s) ∨
    (∃ c rest, s.script = .submit c :: rest ∧ exec (decode c) { s with script := rest } = .next t) ∨
    (∃ rest, s.script = .collect :: rest ∧ collect { s with script := rest } = .next t) ∨
    (∃ rest, s.script = .readStatus :: rest ∧ readStatus { s with script := rest } = .next t) ∨
    (∃ rest, s.script = .reset :: rest ∧ t = resetBlock { s with script := rest }) := by
  unfold hostStep at h
  split at h
  · exact .inl ⟨‹_›, by simpa using h.symm⟩
  · exact .inr (.inl ⟨_, _, ‹_›, h⟩)
  · exact .inr (.inr (.inl ⟨_, ‹_›, h⟩))
  · exact .inr (.inr (.inr (.inl ⟨_, ‹_›, h⟩)))
  · exact .inr (.inr (.inr (.inr ⟨_, ‹_›, by simpa using h.symm⟩)))

theorem waitStep_next {s t : State} (h : waitStep s = .next t) : s.phase ≠ .unused ∧ t = s := by
  unfold waitStep at h
  split at h
  · cases h
  · exact ⟨‹_›, by simpa using h.symm⟩

theorem hostStep_submit {s : State} {c : Command} {rest : List HostAction} (h : s.script = .submit c :: rest) :
    hostStep s = exec (decode c) { s with script := rest } := by
  simp [hostStep, h]

end Sys2Proof.Machine
end

