-- ==== Sys2Proof/Machine/Assembler.lean ====
section
/-!
DEFINITION. The host-program text of 30_encoding.md R70 and the pseudo-instruction RUN of R71: one statement a
line, `;` starts a comment, read into the host's actions. White space and blank lines: DESIGN CHOICE (log 15).
It is no part of the block: `step` calls none of it.
-/

namespace Sys2Proof.Machine

/-- The pieces of a character sequence between separators. -/
def splitChars (sep : Char) : List Char → List (List Char)
  | [] => [[]]
  | c :: cs =>
    if c = sep then [] :: splitChars sep cs
    else
      match splitChars sep cs with
      | [] => [[c]]
      | w :: ws => (c :: w) :: ws

/-- White space inside a line (log 15). -/
def isBlank (c : Char) : Bool := c = ' ' || c = '\t' || c = '\r'

/-- A character sequence without the white space at its ends (log 15). -/
def trimBlanks (cs : List Char) : List Char :=
  ((cs.dropWhile isBlank).reverse.dropWhile isBlank).reverse

/-- The value of a digit in a base up to 16, hexadecimal digits in either case (R70). -/
def digitValue (base : Nat) (c : Char) : Option Nat :=
  let v : Nat :=
    if '0' ≤ c ∧ c ≤ '9' then c.toNat - '0'.toNat
    else if 'a' ≤ c ∧ c ≤ 'f' then c.toNat - 'a'.toNat + 10
    else if 'A' ≤ c ∧ c ≤ 'F' then c.toNat - 'A'.toNat + 10
    else base
  if v < base then some v else none

/-- The value of a digit sequence after the digits read so far. -/
def digitsValue (base : Nat) : Nat → List Char → Option Nat
  | acc, [] => some acc
  | acc, c :: cs => (digitValue base c).bind fun v => digitsValue base (acc * base + v) cs

/-- An unsigned literal: hexadecimal after `0x`, else decimal (R70). It has at least one digit. -/
def parseUnsigned : List Char → Option Nat
  | '0' :: 'x' :: d :: ds => digitsValue 16 0 (d :: ds)
  | d :: ds => digitsValue 10 0 (d :: ds)
  | [] => none

/-- An element literal: "a leading `-` is allowed on either, so that invalid elements can be written" (R70). -/
def parseElement (cs : List Char) : Option Int :=
  match trimBlanks cs with
  | '-' :: ds => (parseUnsigned ds).map fun n => -(n : Int)
  | ds => (parseUnsigned ds).map fun n => (n : Int)

/-- `[<e0>, <e1>, ...]`, which may be empty (R70). -/
def parseData (cs : List Char) : Option (List Int) :=
  match trimBlanks cs with
  | '[' :: rest =>
    match rest.reverse with
    | ']' :: inner =>
      if (trimBlanks inner).isEmpty then some []
      else (splitChars ',' inner.reverse).mapM parseElement
    | _ => none
  | _ => none

/-- `<op>`: one of the mnemonics of R61. -/
def parseOp (cs : List Char) : Option (BitVec 2) :=
  if cs = "COMPUTE".toList then some opCompute
  else if cs = "FRAME".toList then some opFrame
  else if cs = "FRAME_COMPLETE".toList then some opFrameComplete
  else if cs = "VERIFY".toList then some opVerify
  else none

/-- `<op>, [<e0>, ...]`: the command, cut at its first comma. -/
def parseCommand (cs : List Char) : Option Command :=
  let opText := cs.takeWhile fun c => c ≠ ','
  match cs.dropWhile fun c => c ≠ ',' with
  | ',' :: rest =>
    (parseOp (trimBlanks opText)).bind fun o => (parseData rest).map fun d => { cmd := o, data := d }
  | _ => none

/-- RUN (R71) expands to SUBMIT and COLLECT; "The expansion needs no wait statement". -/
def expandRun (c : Command) : List HostAction := [.submit c, .collect]

/-- One line without its comment: the actions of its statement, none for a blank line (R70, R71). -/
def parseStatement (cs : List Char) : Option (List HostAction) :=
  let line := trimBlanks cs
  let word := line.takeWhile fun c => !isBlank c
  let rest := trimBlanks (line.dropWhile fun c => !isBlank c)
  if line.isEmpty then some []
  else if word = "SUBMIT".toList then (parseCommand rest).map fun c => [.submit c]
  else if word = "RUN".toList then (parseCommand rest).map expandRun
  else if line = "COLLECT".toList then some [.collect]
  else if line = "STATUS".toList then some [.readStatus]
  else if line = "RESET".toList then some [.reset]
  else none

/-- A host program: one statement per line, `;` starts a comment (R70). -/
def assemble (text : String) : Option (List HostAction) :=
  (((splitChars '\n' text.toList).map fun line => line.takeWhile fun c => c ≠ ';').mapM
    parseStatement).map List.flatten

end Sys2Proof.Machine
end

