-- ==== Sys2Proof/Machine/HostText.lean ====
section
/-!
DEFINITION. The host-side text rendering of a COMPUTE value (41_checksum_engine.md R112): "not a block
function". `step` calls none of it.
-/

namespace Sys2Proof.Machine

/-- `toHex` (R112): "0x", then lowercase hexadecimal digits with no leading zeros. PRESUMED (unsafe, log 16):
the source shows one value only; the general rule is the spec's general knowledge (G2). -/
def toHex (v : Word16) : String := String.ofList ('0' :: 'x' :: Nat.toDigits 16 v.toNat)

end Sys2Proof.Machine
end

