-- ==== Sys2Proof/Tests/Slice0.lean ====
section
/-!
SUPPORT. Small tests, each expected value from the spec's own examples and vectors (V<n> of 95_test_vectors.md)
or worked by hand from the rule named; the WellFormed smoke tests; and, for every statement with hypotheses, a
concrete state and operands that meet them together (witness_…).
-/

open Sys2Proof Sys2Proof.Machine

namespace Sys2Proof.Tests

/-! ## Helpers -/

/-- An idle block, the host's actions given. -/
def idleWith (script : List HostAction) : State := { State.reset with script := script }

/-- The idle block with a MAX_LEN and with values left in the engine's fields. -/
def idleOld (maxLen : Option Nat) : State :=
  { State.reset with
    cfg := { frameMode := .fixed2, maxLen := maxLen }, op := some .verify, buf := some (Memory.ofBytes [0x31#8]),
    idx := some 1, cnt := some 0, crc := some 0x947E#16 }

/-- A busy block: COMPUTE [0xFF, 0xFE] of V13, at `idx = i`, `cnt = n`, `crc = c`. -/
def busyAt (i n : Nat) (c : Word16) (script : List HostAction) (schedule : List Agent) : State :=
  { State.reset with
    phase := .busy, op := some .compute, buf := some (Memory.ofBytes [0xFF#8, 0xFE#8]), idx := some i,
    cnt := some n, crc := some c, script := script, schedule := schedule }

/-- A block that holds a response. -/
def doneWith (r : Response) (script : List HostAction) : State :=
  { State.reset with phase := .done, resp := some r, script := script }

/-- The next state of an answer. -/
def after (r : Result) : Option State :=
  match r with
  | .next t => some t
  | _ => none

/-- The fault of an answer. -/
def faultOf (r : Result) : Option Fault :=
  match r with
  | .fault f => some f
  | _ => none

/-! ## Decoding (R61: the words written out from the table) -/

theorem test_word_00_is_compute : decodeTableWord 8 0b00 = some (.compute []) := by decide
theorem test_word_01_is_frame : decodeTableWord 8 0b01 = some (.frame []) := by decide
theorem test_word_10_is_frameComplete : decodeTableWord 8 0b10 = some (.frameComplete []) := by decide
theorem test_word_11_is_verify : decodeTableWord 8 0b11 = some (.verify []) := by decide
theorem test_word_100_is_too_wide : decodeWord 0b100 [] = .error (.wordTooWide 4) := by rfl
theorem test_data_is_carried : decode { cmd := 0b01#2, data := [-1, 300] } = .frame [-1, 300] := by decide
theorem test_table_rows_are_disjoint :
    opcodeTable.Pairwise (fun r q => ∀ c : BitVec 2, r.covers c = true → q.covers c = false) := by decide

/-! ## WellFormed: each check refuses an ill-formed command -/

theorem smoke_256_is_out_of_range : (Instr.compute [256]).elementsInRange = false := by decide
theorem smoke_minus1_is_out_of_range : (Instr.verify [0, -1]).elementsInRange = false := by decide
theorem smoke_255_and_0_are_in_range : (Instr.frame [255, 0]).elementsInRange = true := by decide
theorem smoke_overlong_does_not_fit :
    (Instr.frame [1, 2, 3]).fitsMaxLen { frameMode := .variableLen, maxLen := some 2 } = false := by decide
theorem smoke_ill_formed : (Instr.frameComplete [1, 2, 256]).wellFormed Config.hardware = false := by decide

/-! ## Engine -/

/-- V10. -/
theorem test_shift1_FFFF : shift1 0xFFFF#16 = 0xDFFE#16 := by decide
/-- V10: no sign extension. -/
theorem test_shift1_8000 : shift1 0x8000#16 = 0x4000#16 := by decide
/-- V12. -/
theorem test_updateByte_00FF_FE : updateByte 0x00FF#16 0xFE#8 = 0xC0C1#16 := by decide
/-- V11. -/
theorem test_absorbByte : absorbByte 0x1234#16 0x34#8 = 0x1200#16 := by decide
/-- V20. -/
theorem test_crc16_check_value :
    crc16 [0x31#8, 0x32#8, 0x33#8, 0x34#8, 0x35#8, 0x36#8, 0x37#8, 0x38#8, 0x39#8] = 0x4B37#16 := by
  decide +kernel
/-- R102's example: the block's ABSORB. -/
theorem test_absorb_step :
    (after (absorb (busyAt 0 0 0xFFFF#16 [] []))).map (fun t => (t.crc, t.idx, t.cnt)) =
      some (some 0xFF00#16, some 1, some 8) := by decide
/-- R103's example: the block's SHIFT. -/
theorem test_shift_step :
    (after (shift (busyAt 1 8 0x0001#16 [] []))).map (fun t => (t.crc, t.cnt)) =
      some (some 0xA001#16, some 7) := by decide

/-! ## Framer and Verifier -/

/-- V23, V14: the largest one-byte checksum and the smallest two-byte one (R130). -/
theorem test_frameBytes_threshold :
    frameBytes .variableLen 0x00FF#16 = [0xFF#8] ∧ frameBytes .variableLen 0x0100#16 = [0x00#8, 0x01#8] := by decide
/-- V23: FIXED2 pads (R131). -/
theorem test_frameBytes_fixed2 : frameBytes .fixed2 0x00FF#16 = [0xFF#8, 0x00#8] := by decide
/-- V37: the modular-sum reading would say true. -/
theorem test_verify_no_modular_sum : resultVerify .variableLen 0xFF01#16 = .ok (.flag false) := by decide
/-- V36: the same packet, padded, in the other mode. -/
theorem test_verify_padded :
    spec .variableLen .verify [0xFC, 0xBF, 0x01, 0x00] = .ok (.flag true) := by decide +kernel

/-! ## The commands: one accepted, one rejected each (R82, R83) -/

theorem test_compute_accepted :
    (after (exec (.compute [0xFF, 0xFE]) (idleWith []))).map (fun t => (t.op, t.buf, t.crc)) =
      some (some .compute, some [(0, 0xFF#8), (1, 0xFE#8)], some 0xFFFF#16) := by decide
/-- V7. -/
theorem test_compute_rejected :
    (after (exec (.compute [256]) (idleWith []))).map (fun t => (t.phase, t.resp, t.crc)) =
      some (.done, some (.err .invalidByteValue), none) := by decide
theorem test_frame_accepted :
    (after (exec (.frame []) (idleOld none))).map (fun t => (t.phase, t.op, t.buf)) =
      some (.busy, some .frame, some []) := by decide
/-- V25. -/
theorem test_frame_rejected :
    (after (exec (.frame [-5]) (idleOld none))).map (fun t => (t.phase, t.resp, t.op, t.crc)) =
      some (.done, some (.err .invalidByteValue), some .verify, some 0x947E#16) := by decide
theorem test_frameComplete_accepted :
    (after (exec (.frameComplete [255]) (idleOld (some 1)))).map (fun t => (t.phase, t.op, t.buf)) =
      some (.busy, some .frameComplete, some [(0, 0xFF#8)]) := by decide
/-- V25: the bad element last. -/
theorem test_frameComplete_rejected :
    (after (exec (.frameComplete [1, 2, 256]) (idleWith []))).map (fun t => (t.phase, t.resp)) =
      some (.done, some (.err .invalidByteValue)) := by decide
theorem test_verify_accepted :
    (after (exec (.verify [0]) (idleWith []))).map (fun t => (t.phase, t.op, t.buf)) =
      some (.busy, some .verify, some [(0, 0x00#8)]) := by decide
/-- V39: ERR, never false. -/
theorem test_verify_rejected :
    (after (exec (.verify [0xFF, 300]) (idleWith []))).map (fun t => t.resp) =
      some (some (.err .invalidByteValue)) := by decide

/-! ## Protocol, status, reset -/

/-- V50 to V52. -/
theorem test_status_idle : statusView (idleWith []) = .ok 0x01#8 := by rfl
theorem test_status_busy : statusView (busyAt 0 0 0xFFFF#16 [] []) = .ok 0x02#8 := by rfl
theorem test_status_done_ok : statusView (doneWith (.ok (.flag true)) []) = .ok 0x04#8 := by rfl
theorem test_status_done_err : statusView (doneWith (.err .invalidByteValue) []) = .ok 0x0C#8 := by rfl
/-- V55: SUBMIT in DONE holds, and the statement stays. -/
theorem test_submit_in_done_holds :
    after (step (doneWith (.ok (.flag true)) [.submit { cmd := 0b00#2, data := [] }])) =
      some (doneWith (.ok (.flag true)) [.submit { cmd := 0b00#2, data := [] }]) := by decide
/-- R85 by way of a step: the last step of V13, while the host waits with its COLLECT (R207). -/
theorem test_finish_under_a_held_collect :
    (after (step (busyAt 2 0 0xC0C1#16 [.collect] []))).map (fun t => (t.phase, t.resp, t.script)) =
      some (.done, some (.ok (.value16 0xC0C1#16)), [.collect]) := by decide
/-- P1: the STATUS read before FINISH, or the BLOCK first; both are allowed (R80). -/
theorem test_status_may_come_first :
    (after (step (busyAt 2 0 0xC0C1#16 [.readStatus] [.host]))).map (fun t => (t.phase, t.observed)) =
      some (.busy, [.status 0x02#8]) := by decide
theorem test_block_may_come_first :
    (after (step (busyAt 2 0 0xC0C1#16 [.readStatus] [.block]))).map (fun t => (t.phase, t.observed)) =
      some (.done, []) := by decide
/-- R200: RESET leaves the unused phase code; R23: anything else that finds it faults. -/
theorem test_reset_from_unused :
    after (step { idleWith [.reset] with phase := .unused }) = some (idleWith []) := by decide
theorem test_unused_faults :
    faultOf (step { idleWith [.readStatus] with phase := .unused }) = some .illegalPhase := by decide
/-- R31: a BUSY state whose `crc` holds ⊥ faults when the BLOCK reads it. -/
theorem test_bottom_faults :
    faultOf (step { busyAt 0 8 0xFFFF#16 [] [] with crc := none }) = some (.noValue .crc) := by decide
/-- The first step after reset with a table word placed is that command's SUBMIT (log 2). -/
theorem test_placed_word_runs :
    (after (step (State.reset.withFetchWord 8 3))).map (fun t => (t.phase, t.op, t.script)) =
      some (.busy, some .verify, []) := by decide

/-! ## Host text (R70, R71, R112) -/

/-- P3's first statements. -/
theorem test_assemble :
    assemble "RESET\nSUBMIT FRAME, [0x10, 256, -1]   ; a comment\nSTATUS\nCOLLECT\nRUN VERIFY, []" =
      some [.reset, .submit { cmd := 0b01#2, data := [16, 256, -1] }, .readStatus, .collect,
        .submit { cmd := 0b11#2, data := [] }, .collect] := by decide
theorem test_assemble_refuses : assemble "SUBMIT CRC, [1]" = none := by decide
/-- V2. -/
theorem test_toHex : toHex 0xC0C1#16 = "0xc0c1" := by decide

/-! ## Witnesses: states and operands that meet the hypotheses of the statements -/

/-- V13 after the first ABSORB: a busy state in the invariant. -/
theorem busy_shifting_inv : (busyAt 1 8 0xFF00#16 [.readStatus] [.host]).Inv where
  legalPhase := by decide
  respInDone := by decide
  bufCanonical := by intro m h; cases h; decide
  bufFits := by intro m h; cases h; decide
  busy := fun _ => ⟨_, _, _, _, _, rfl, rfl, rfl, rfl, rfl, by decide, by decide, by omega,
    fun _ => ⟨0, 0xFF#8, rfl, by decide, by decide⟩⟩
  done := by intro h; cases h

/-- V13 before the first ABSORB. -/
theorem busy_absorbing_inv : (busyAt 0 0 0xFFFF#16 [] []).Inv where
  legalPhase := by decide
  respInDone := by decide
  bufCanonical := by intro m h; cases h; decide
  bufFits := by intro m h; cases h; decide
  busy := fun _ => ⟨_, _, _, _, _, rfl, rfl, rfl, rfl, rfl, by decide, by decide, fun _ => by decide, by omega⟩
  done := by intro h; cases h

/-- V13 before FINISH. -/
theorem busy_finishing_inv : (busyAt 2 0 0xC0C1#16 [] []).Inv where
  legalPhase := by decide
  respInDone := by decide
  bufCanonical := by intro m h; cases h; decide
  bufFits := by intro m h; cases h; decide
  busy := fun _ => ⟨_, _, _, _, _, rfl, rfl, rfl, rfl, rfl, by decide, by decide, fun _ => by decide +kernel, by omega⟩
  done := by intro h; cases h

/-- An idle state with values left from an earlier command. -/
theorem idle_old_inv : (idleOld (some 1)).Inv where
  legalPhase := by decide
  respInDone := by decide
  bufCanonical := by intro m h; cases h; decide
  bufFits := by intro m h; cases h; decide
  busy := by intro h; cases h
  done := by intro h; cases h

theorem witness_TableWordsDecode : (4 ≤ 255 ∧ 255 < 256) ∧ (4 ≤ 4 ∧ 4 < 256) := by decide

theorem witness_RejectedSubmitWritesOnlyTheError :
    (idleOld (some 2)).phase = .idle ∧ admits (idleOld (some 2)).cfg (Instr.verify [0, 256]).data.length = true ∧
      ∃ e ∈ (Instr.verify [0, 256]).data, e < 0 ∨ 255 < e := by decide

/-- AcceptedSubmitLatchesTheCommand, SubmitFillsTheOperandBuffer, TransactionTakesNinePerElementPlusOne. -/
theorem witness_AcceptedSubmit :
    (Instr.frame [0, 255]).data = asElements [0x00#8, 0xFF#8] ∧ (idleOld (some 2)).phase = .idle ∧
      admits (idleOld (some 2)).cfg [0x00#8, 0xFF#8].length = true := by decide

/-- ComputeAnswersTheChecksum, FrameAnswersTheFrameBytes, FrameCompleteAnswersThePacket and
VerifyAnswersWhetherTheChecksumIsZero, at the empty sequence and at MAX_LEN. -/
theorem witness_CommandAnswers :
    (idleOld (some 2)).phase = .idle ∧ admits (idleOld (some 2)).cfg ([] : List Byte).length = true ∧
      admits (idleOld (some 2)).cfg [0x00#8, 0xFF#8].length = true := by decide

theorem witness_SubmitHoldsOutsideIdle :
    (busyAt 0 0 0xFFFF#16 [] []).phase = .busy ∧ (doneWith (.ok (.flag true)) []).phase = .done := by decide

theorem witness_OverlongSubmitIsNotAdmitted :
    (idleOld (some 2)).phase ≠ .unused ∧ (idleOld (some 2)).cfg.maxLen = some 2 ∧
      2 < (Instr.compute [1, 2, 3]).data.length := by decide

theorem witness_UnusedPhaseCodeFaults :
    ({ idleWith [.collect] with phase := .unused } : State).phase = .unused ∧
      ({ idleWith [.collect] with phase := .unused } : State).script.head? ≠ some .reset := by decide

theorem witness_WellFormedSaysWhatIsAccepted :
    (idleOld (some 1)).phase = .idle ∧
      ((Instr.frame [255]).fitsMaxLen (idleOld (some 1)).cfg = true ∧
        (Instr.frame [255]).wellFormed (idleOld (some 1)).cfg = true) ∧
      ((Instr.frame [256]).fitsMaxLen (idleOld (some 1)).cfg = true ∧
        (Instr.frame [256]).elementsInRange = false) := by decide

theorem witness_StepRunsTheSubmittedCommand :
    (idleWith [.submit { cmd := 0b11#2, data := [-1] }, .collect]).script =
        .submit { cmd := 0b11#2, data := [-1] } :: [.collect] ∧
      (idleWith [.submit { cmd := 0b11#2, data := [-1] }, .collect]).phase = .idle ∧
      admits Config.hardware [(-1 : Int)].length = true := by decide

theorem witness_PlacedWordRunsNext : decodeTableWord 8 2 = some (.frameComplete []) := by decide

theorem witness_CollectReturnsTheResponseOnce :
    (let s := doneWith (.err .invalidByteValue) [.collect]
     s.script = .collect :: [] ∧ s.phase = .done ∧ s.resp = some (.err .invalidByteValue)) ∧
    (let s := idleWith [.collect]
     s.script = .collect :: [] ∧ s.phase = .idle) ∧
    (let s := busyAt 0 0 0xFFFF#16 [.collect] []
     s.script = .collect :: [] ∧ s.phase = .busy ∧ blockReady s = true) := by decide

theorem witness_StatusReadGivesItsFourValues :
    (let s := idleWith [.readStatus]
     s.script = .readStatus :: [] ∧ s.phase = .idle) ∧
    (let s := busyAt 0 0 0xFFFF#16 [.readStatus] []
     s.script = .readStatus :: [] ∧ s.phase = .busy) ∧
    (let s := doneWith (.ok (.value16 0#16)) [.readStatus]
     s.script = .readStatus :: [] ∧ s.phase = .done ∧ s.resp = some (.ok (.value16 0#16))) ∧
    (let s := doneWith (.err .invalidByteValue) [.readStatus]
     s.script = .readStatus :: [] ∧ s.phase = .done ∧ s.resp = some (.err .invalidByteValue)) := by decide

theorem witness_StatusBitsSayThePhase :
    statusView (doneWith (.err .invalidByteValue) []) = .ok 0x0C#8 := by rfl

theorem witness_StatusHidesTheEngine :
    (busyAt 0 0 0xFFFF#16 [] []).phase = (busyAt 2 0 0xC0C1#16 [] []).phase ∧
      (busyAt 0 0 0xFFFF#16 [] []).resp = (busyAt 2 0 0xC0C1#16 [] []).resp := by decide

theorem witness_ResetClearsEveryField :
    (doneWith (.ok (.flag true)) [.reset]).script = .reset :: [] ∧
      (doneWith (.ok (.flag true)) [.reset]).phase ≠ .busy := by decide

theorem witness_ResetInBusyAbandonsTheTransaction :
    (let s := busyAt 1 3 0x0001#16 [.reset, .collect] [.host, .block]
     s.phase = .busy ∧ blockReady s = true ∧ s.script = .reset :: [.collect] ∧ s.schedule = .host :: [.block]) := by
  decide

/-- ResetInIdleIsInvisible, both clauses. -/
theorem witness_ResetInIdleIsInvisible :
    (idleOld (some 1)).Inv ∧ (idleOld (some 1)).phase = .idle ∧
      ((Instr.verify [0]).data = asElements [0x00#8] ∧ admits (idleOld (some 1)).cfg [0x00#8].length = true) ∧
      ((∃ e ∈ (Instr.verify [-1]).data, e < 0 ∨ 255 < e) ∧
        admits (idleOld (some 1)).cfg (Instr.verify [-1]).data.length = true) :=
  ⟨idle_old_inv, by decide, by decide, by decide⟩

/-- ResetClearsEveryField, ResetEstablishesTheInvariant: the unused phase code is among the states (log 7). -/
theorem witness_ResetFromUnused :
    (let s := { idleWith [.reset] with phase := .unused }
     s.script = .reset :: [] ∧ s.phase ≠ .busy ∧ s.phase = .unused) := by decide

/-- ConfigurationNeverChanges, ObservationsComeFromCollectAndStatus, OperandAndOperationOnlyFromSubmit. -/
theorem witness_StepAnswersNext : ∃ t, step (busyAt 1 8 0xFF00#16 [.readStatus] [.host]) = .next t := ⟨_, rfl⟩

/-- ObservationsComeFromCollectAndStatus: a COLLECT's response and a read's STATUS value. -/
theorem witness_ObservationsComeFromCollectAndStatus :
    (after (step (doneWith (.ok (.flag true)) [.collect]))).map (fun t => t.observed) =
      some [.response (.ok (.flag true))] ∧
    (after (step (doneWith (.ok (.flag true)) [.readStatus]))).map (fun t => t.observed) =
      some [.status 0x04#8] := by decide

/-- SchedulerMayTakeEitherAgent, its last clause too. -/
theorem witness_SchedulerMayTakeEitherAgent :
    hostReady (busyAt 1 8 0xFF00#16 [.readStatus] []) = true ∧
      blockReady (busyAt 1 8 0xFF00#16 [.readStatus] []) = true ∧
      (busyAt 1 8 0xFF00#16 [.readStatus] []).schedule = [] := by decide

theorem witness_NothingEnabledNothingChanges :
    ((idleWith []).phase = .idle ∧ (idleWith []).script = []) ∧
    ((doneWith (.ok (.flag true)) []).phase = .done ∧ (doneWith (.ok (.flag true)) []).script = []) ∧
    (let s := doneWith (.ok (.flag true)) [.submit { cmd := 0b00#2, data := [] }]
     s.phase = .done ∧ s.script = .submit { cmd := 0b00#2, data := [] } :: []) ∧
    ((idleWith [.collect]).phase = .idle ∧ (idleWith [.collect]).script = .collect :: []) ∧
    (let s := { idleOld (some 2) with script := [.submit { cmd := 0b10#2, data := [1, 2, 3] }] }
     s.phase = .idle ∧ s.script = .submit { cmd := 0b10#2, data := [1, 2, 3] } :: [] ∧ s.cfg.maxLen = some 2 ∧
     2 < [1, 2, 3].length ∧ s.phase ≠ .unused ∧ hostReady s = false ∧ blockReady s = false) ∧
    (let s := { idleOld (some 2) with phase := .done, script := [.submit { cmd := 0b10#2, data := [1, 2, 3] }] }
     s.phase = .done ∧ s.script = .submit { cmd := 0b10#2, data := [1, 2, 3] } :: [] ∧ s.cfg.maxLen = some 2 ∧
     2 < [1, 2, 3].length) := by decide

/-- ExactlyOneBlockStepInBusy: one state for each of its three cases, and the two quiescent phases. -/
theorem witness_ExactlyOneBlockStepInBusy :
    (busyAt 0 0 0xFFFF#16 [] []).Inv ∧ (busyAt 1 8 0xFF00#16 [.readStatus] [.host]).Inv ∧
      (busyAt 2 0 0xC0C1#16 [] []).Inv ∧ (busyAt 0 0 0xFFFF#16 [] []).phase = .busy ∧
      (busyAt 1 8 0xFF00#16 [.readStatus] [.host]).phase = .busy ∧ (busyAt 2 0 0xC0C1#16 [] []).phase = .busy ∧
      (idleWith []).phase = .idle ∧ (doneWith (.ok (.flag true)) []).phase = .done :=
  ⟨busy_absorbing_inv, busy_shifting_inv, busy_finishing_inv, rfl, rfl, rfl, rfl, rfl⟩

/-- AbsorbXorsTheNextElement, at the first and the last index, with an element 0xFF and an element 0x00, and
where it is not enabled. -/
theorem witness_AbsorbXorsTheNextElement :
    (let s := busyAt 0 0 0xFFFF#16 [] []
     s.phase = .busy ∧ s.cnt = some 0 ∧ s.idx = some 0 ∧ s.buf = some (Memory.ofBytes [0xFF#8, 0xFE#8]) ∧
     s.crc = some 0xFFFF#16 ∧ Memory.wf (Memory.ofBytes [0xFF#8, 0xFE#8]) = true ∧
     (Memory.bytes (Memory.ofBytes [0xFF#8, 0xFE#8]))[0]? = some 0xFF#8) ∧
    (let s := { busyAt 1 0 0x00FF#16 [] [] with buf := some (Memory.ofBytes [0xFF#8, 0x00#8]) }
     s.phase = .busy ∧ s.cnt = some 0 ∧ s.idx = some 1 ∧ s.buf = some (Memory.ofBytes [0xFF#8, 0x00#8]) ∧
     s.crc = some 0x00FF#16 ∧ Memory.wf (Memory.ofBytes [0xFF#8, 0x00#8]) = true ∧
     (Memory.bytes (Memory.ofBytes [0xFF#8, 0x00#8]))[1]? = some 0x00#8) ∧
    (idleWith []).phase = .idle ∧ (doneWith (.ok (.flag true)) []).phase = .done ∧
    (let s := busyAt 2 0 0xC0C1#16 [] []
     s.phase = .busy ∧ s.cnt = some 0 ∧ s.idx = some 2 ∧ s.buf = some (Memory.ofBytes [0xFF#8, 0xFE#8]) ∧
     ¬ (0 = 0 ∧ 2 < Memory.size (Memory.ofBytes [0xFF#8, 0xFE#8]))) := by decide

/-- ShiftDividesByOneBit, at the first and the last of the 8 shifts, and where it is not enabled. -/
theorem witness_ShiftDividesByOneBit :
    (let s := busyAt 1 8 0xFF00#16 [] []
     s.phase = .busy ∧ s.cnt = some (7 + 1) ∧ s.crc = some 0xFF00#16) ∧
    (let s := busyAt 1 1 0x01FE#16 [] []
     s.phase = .busy ∧ s.cnt = some (0 + 1) ∧ s.crc = some 0x01FE#16) ∧
    (idleWith []).phase = .idle ∧ (doneWith (.ok (.flag true)) []).phase = .done ∧
    (let s := busyAt 2 0 0xC0C1#16 [] []
     s.phase = .busy ∧ s.cnt = some 0) ∧
    (0x0001#16).getLsbD 0 = true := by decide

/-- FinishFormsTheResponse: each operation, and where it is not enabled. -/
theorem witness_FinishFormsTheResponse :
    (∀ o : Op, o ∈ [Op.compute, Op.frame, Op.frameComplete, Op.verify] →
      (let s := { busyAt 2 0 0xC0C1#16 [] [] with op := some o }
       s.phase = .busy ∧ s.cnt = some 0 ∧ s.idx = some (Memory.size (Memory.ofBytes [0xFF#8, 0xFE#8])) ∧
       s.buf = some (Memory.ofBytes [0xFF#8, 0xFE#8]) ∧ s.crc = some 0xC0C1#16 ∧ s.op = some o)) ∧
    (idleWith []).phase = .idle ∧ (doneWith (.ok (.flag true)) []).phase = .done ∧
    (let s := busyAt 2 1 0xC181#16 [] []
     s.phase = .busy ∧ s.cnt = some 1 ∧ s.idx = some 2 ∧ s.buf = some (Memory.ofBytes [0xFF#8, 0xFE#8]) ∧
     ¬ (1 = 0 ∧ 2 = Memory.size (Memory.ofBytes [0xFF#8, 0xFE#8]))) := by decide

theorem witness_BlockStepFrame : ∃ t, blockStep (busyAt 2 0 0xC0C1#16 [] []) = .next t := ⟨_, rfl⟩

theorem witness_TransactionTakesNinePerElementPlusOne :
    (Instr.verify []).data = asElements [] ∧ (idleOld (some 0)).phase = .idle ∧
      admits (idleOld (some 0)).cfg ([] : List Byte).length = true ∧ 0 ≤ 9 * ([] : List Byte).length := by decide

/-- EveryStepKeepsTheInvariant, NoStepFaultsFromTheInvariant. -/
theorem witness_EveryStepKeepsTheInvariant :
    (busyAt 1 8 0xFF00#16 [.readStatus] [.host]).Inv ∧
      ∃ t, step (busyAt 1 8 0xFF00#16 [.readStatus] [.host]) = .next t :=
  ⟨busy_shifting_inv, _, rfl⟩

theorem witness_BusyAlwaysEnds :
    (busyAt 1 8 0xFF00#16 [.readStatus] [.host]).Inv ∧
      (let s := busyAt 1 8 0xFF00#16 [.readStatus] [.host]
       s.phase = .busy ∧ s.cnt = some 8 ∧ s.idx = some 1 ∧ s.buf = some (Memory.ofBytes [0xFF#8, 0xFE#8])) :=
  ⟨busy_shifting_inv, by decide⟩

/-- TransactionReturnsItsSpec: a valid DATA with two STATUS reads and with none, and an invalid DATA. -/
theorem witness_TransactionReturnsItsSpec :
    (let c : Command := { cmd := 0b01#2, data := [0x10, 0x20] }
     let s := idleWith [.submit c, .readStatus, .readStatus, .collect]
     s.phase = .idle ∧ s.script = .submit c :: (List.replicate 2 .readStatus ++ .collect :: []) ∧
     admits s.cfg c.data.length = true ∧ c.data.all validElement = true) ∧
    (let c : Command := { cmd := 0b00#2, data := [] }
     let s := idleWith [.submit c, .collect]
     s.phase = .idle ∧ s.script = .submit c :: (List.replicate 0 .readStatus ++ .collect :: []) ∧
     admits s.cfg c.data.length = true ∧ c.data.all validElement = true) ∧
    (let c : Command := { cmd := 0b01#2, data := [0x10, 256, 0x20] }
     let s := idleWith [.submit c, .readStatus, .collect]
     s.phase = .idle ∧ s.script = .submit c :: (List.replicate 1 .readStatus ++ .collect :: []) ∧
     admits s.cfg c.data.length = true ∧ c.data.all validElement = false) := by decide

theorem witness_ResponseDependsOnlyOnTheCommand :
    (Instr.verify [0xFF]).data = asElements [0xFF#8] ∧ (idleOld none).phase = .idle ∧
      ({ idleOld none with crc := none, buf := none } : State).phase = .idle ∧
      (idleOld none).cfg = ({ idleOld none with crc := none, buf := none } : State).cfg ∧
      admits (idleOld none).cfg [0xFF#8].length = true := by decide

/-- FrameBytesAreLowThenHigh, FrameBytesLength: both sides of the threshold. -/
theorem witness_FrameBytes : 0xFF < (0x0100#16).toNat ∧ (0x00FF#16).toNat ≤ 0xFF := by decide

/-- VerifyAcceptsEveryFramedPacket, at MAX_LEN, in FIXED2. -/
theorem witness_VerifyAcceptsEveryFramedPacket :
    (idleOld (some 3)).phase = .idle ∧
      admits (idleOld (some 3)).cfg
        ([0xFF#8] ++ frameBytes (idleOld (some 3)).cfg.frameMode (crc16 [0xFF#8])).length = true := by decide

/-- SingleBitFlipIsDetected: bit 7 of the last byte (V41). -/
theorem witness_SingleBitFlipIsDetected :
    FlipsOneBit ([0xFF#8, 0xFE#8] ++ frameBytes .variableLen (crc16 [0xFF#8, 0xFE#8]))
      [0xFF#8, 0xFE#8, 0xC1#8, 0x40#8] :=
  ⟨3, 0xC0#8, 7, by decide +kernel, by decide +kernel⟩

end Sys2Proof.Tests
end

section
namespace Sys2Proof.Machine

/-- Settles O44 (R2, R64): both sides are closed 16-bit words, so the equation is decided by computing the
reversal of 0x8005. -/
theorem polynomialIsReflected : Obligations.PolynomialIsReflected := by
  unfold Obligations.PolynomialIsReflected
  decide

end Sys2Proof.Machine
end

section
/-! How the named operations behave: what an accepted SUBMIT answers (10_state.md R25, R83), the values of
STATUS (R30), and when a step may leave the state it was given. -/

namespace Sys2Proof.Machine

/-! ## SUBMIT of byte values -/

theorem decodeData_asElements (bs : List Byte) : decodeData (asElements bs) = some bs := by
  simp [decodeData, asElements, List.map_map, Function.comp_def]

@[simp] theorem asElements_length (bs : List Byte) : (asElements bs).length = bs.length := by
  simp [asElements]

/-- An admitted SUBMIT of byte values, of any operation, makes the writes of R83. -/
theorem exec_eq_accept {i : Instr} {bs : List Byte} {s : State} (hd : i.data = asElements bs)
    (hp : s.phase = .idle) (ha : admits s.cfg bs.length = true) :
    exec i s = .next (accept (opOf i) bs s) := by
  rw [exec_eq_submit, submit, whenPhase_same hp (by decide), hd, asElements_length, if_pos ha,
    decodeData_asElements]

/-- Settles O8: the state after an accepted SUBMIT is `accept`, whose buffer is `Memory.ofBytes` of the bytes. -/
theorem submitFillsTheOperandBuffer : Obligations.SubmitFillsTheOperandBuffer := by
  intro i bs s hd hp ha
  exact ⟨_, _, exec_eq_accept hd hp ha, accept_buf .., Memory.ofBytes_size bs, Memory.ofBytes_read bs⟩

/-! ## STATUS -/

theorem statusView_idle {s : State} (hp : s.phase = .idle) : statusView s = .ok 0x01#8 := by
  simp only [statusView, hp]; rfl

theorem statusView_busy {s : State} (hp : s.phase = .busy) : statusView s = .ok 0x02#8 := by
  simp only [statusView, hp]; rfl

theorem statusView_done_ok {s : State} {p : Payload} (hp : s.phase = .done) (hr : s.resp = some (.ok p)) :
    statusView s = .ok 0x04#8 := by
  simp [statusView, hp, hr, Response.statusCode, statusByte]

theorem statusView_done_err {s : State} {c : ErrorCode} (hp : s.phase = .done)
    (hr : s.resp = some (.err c)) : statusView s = .ok 0x0C#8 := by
  cases c
  simp only [statusView, hp, hr]; rfl

theorem statusView_done_none {s : State} (hp : s.phase = .done) (hr : s.resp = none) :
    statusView s = .error (.noValue .resp) := by
  simp only [statusView, hp, hr]

theorem statusView_unused {s : State} (hp : s.phase = .unused) : statusView s = .error .illegalPhase := by
  simp only [statusView, hp]

/-- The four values of STATUS, each with the state that shows it (R30). -/
theorem statusView_ok {s : State} {b : Byte} (h : statusView s = .ok b) :
    (s.phase = .idle ∧ b = 0x01#8) ∨ (s.phase = .busy ∧ b = 0x02#8) ∨
    (s.phase = .done ∧ (∃ p, s.resp = some (.ok p)) ∧ b = 0x04#8) ∨
    (s.phase = .done ∧ s.resp = some (.err .invalidByteValue) ∧ b = 0x0C#8) := by
  cases hp : s.phase with
  | idle => simp_all [statusView_idle hp]
  | busy => simp_all [statusView_busy hp]
  | unused => simp [statusView_unused hp] at h
  | done =>
    match hr : s.resp with
    | none => simp [statusView_done_none hp hr] at h
    | some (.ok p) => simp_all [statusView_done_ok hp hr]
    | some (.err .invalidByteValue) => simp_all [statusView_done_err hp hr]

theorem readStatus_eq_next {s : State} {b : Byte} (h : statusView s = .ok b) :
    readStatus s = .next { s with observed := s.observed ++ [.status b] } := by
  simp [readStatus, h]

/-- Settles O22: `phase` and `resp` are all that STATUS reads. -/
theorem statusHidesTheEngine : Obligations.StatusHidesTheEngine := by
  intro s t hp hr
  simp only [statusView, hp, hr]

/-- Settles O21, value by value. -/
theorem statusBitsSayThePhase : Obligations.StatusBitsSayThePhase := by
  intro s b h
  obtain ⟨hp, rfl⟩ | ⟨hp, rfl⟩ | ⟨hp, ⟨p, hr⟩, rfl⟩ | ⟨hp, hr, rfl⟩ := statusView_ok h
  · simp [hp]
  · simp [hp]
  · simp [hp, hr]
  · simp [hp, hr]

end Sys2Proof.Machine
end

section
/-! What a step of the two agents can do (40_command_protocol.md R80), in the form the invariants use. -/

namespace Sys2Proof.Machine

/-! ## Which agent steps -/

theorem blockReady_eq_false {s : State} (hp : s.phase ≠ .busy) : blockReady s = false := by
  simp [blockReady, hp]

/-- The scheduler's choice touches only its own two fields. -/
theorem chooseAgent_snd (s : State) :
    ∃ sched draws, (chooseAgent s).2 = { s with schedule := sched, draws := draws } := by
  unfold chooseAgent
  split
  · exact ⟨_, s.draws, rfl⟩
  · exact ⟨s.schedule, _, rfl⟩

/-- A step is one agent's step, at the state up to the scheduler's own fields, or it waits. -/
theorem step_agent (s : State) :
    step s = waitStep s ∨ ∃ sched draws,
      step s = hostStep { s with schedule := sched, draws := draws } ∨
      step s = blockStep { s with schedule := sched, draws := draws } := by
  obtain (⟨h, -, -⟩ | ⟨h, -, -⟩) | ⟨h, -, -⟩ | ⟨h, -, -⟩ := step_cases s
  · exact .inr ⟨s.schedule, s.draws, .inl h⟩
  · exact .inr ⟨s.schedule, s.draws, .inr h⟩
  · obtain ⟨sched, draws, hu⟩ := chooseAgent_snd s
    exact .inr ⟨sched, draws, hu ▸ h⟩
  · exact .inl h

/-- Outside BUSY a STATUS read that is the host's next action is what the step takes. -/
theorem step_readStatus {s : State} {rest : List HostAction} (hs : s.script = .readStatus :: rest)
    (hp : s.phase ≠ .busy) : step s = hostStep s :=
  step_host (by simp [hostReady, hs]) (blockReady_eq_false hp)

theorem hostStep_readStatus {s : State} {rest : List HostAction} {b : Byte}
    (hs : s.script = .readStatus :: rest) (hv : statusView s = .ok b) :
    hostStep s = .next { s with script := rest, observed := s.observed ++ [.status b] } := by
  simp only [hostStep, hs]
  exact readStatus_eq_next (s := { s with script := rest }) hv

/-- Settles O20: the value in each phase, taken by the host's step. -/
theorem statusReadGivesItsFourValues : Obligations.StatusReadGivesItsFourValues := by
  intro s rest hs
  exact ⟨fun hp => hostStep_readStatus hs (statusView_idle hp),
    fun hp => hostStep_readStatus hs (statusView_busy hp),
    fun _ hp hr => hostStep_readStatus hs (statusView_done_ok hp hr),
    fun _ hp hr => hostStep_readStatus hs (statusView_done_err hp hr),
    step_readStatus hs⟩

/-! ## The unused phase code -/

theorem exec_unused (i : Instr) {s : State} (hp : s.phase = .unused) : exec i s = .fault .illegalPhase := by
  rw [exec_eq_submit, submit, whenPhase_unused hp]

/-- In the unused phase only a STATUS read or a RESET can be the host's enabled action. -/
theorem hostReady_unused {s : State} (hp : s.phase = .unused) (h : hostReady s = true) :
    (∃ rest, s.script = .readStatus :: rest) ∨ s.script.head? = some .reset := by
  unfold hostReady at h
  split at h
  · cases h
  · simp [hp] at h
  · simp [hp] at h
  · exact .inl ⟨_, ‹_›⟩
  · exact .inr (by simp [*])

/-- Settles O11: SUBMIT faults by `whenPhase`; no BLOCK step is enabled, so the step is a STATUS read, which
faults on the phase, or it waits, which faults too. -/
theorem unusedPhaseCodeFaults : Obligations.UnusedPhaseCodeFaults := by
  intro s hp
  refine ⟨fun i => exec_unused i hp, fun hreset => ?_⟩
  have hb : blockReady s = false := blockReady_eq_false (by simp [hp])
  cases hh : hostReady s with
  | false => rw [step_wait hh hb, waitStep, if_pos hp]
  | true =>
    obtain ⟨rest, hs⟩ := (hostReady_unused hp hh).resolve_right hreset
    have hv : statusView { s with script := rest } = .error .illegalPhase := statusView_unused hp
    simp only [step_host hh hb, hostStep, hs, readStatus, hv]

/-! ## What a step leaves unchanged -/

/-- A BLOCK step writes the engine's fields, the response and the phase, and nothing else (R84, R85). -/
theorem blockStep_writes {s t : State} (h : blockStep s = .next t) :
    ∃ crc idx cnt resp phase,
      t = { s with crc := crc, idx := idx, cnt := cnt, resp := resp, phase := phase } := by
  obtain h | h | h | rfl := blockStep_next h
  · obtain ⟨_, _, _, _, -, -, -, -, -, -, -, rfl⟩ | rfl := absorb_next h <;> exact ⟨_, _, _, _, _, rfl⟩
  · obtain ⟨_, _, -, -, -, rfl⟩ | rfl := shift_next h <;> exact ⟨_, _, _, _, _, rfl⟩
  · obtain ⟨_, _, _, -, -, -, -, -, -, rfl⟩ | rfl := finish_next h <;> exact ⟨_, _, _, _, _, rfl⟩
  · exact ⟨_, _, _, _, _, rfl⟩

theorem submit_cfg {o : Op} {data : List Int} {s t : State} (h : submit o data s = .next t) :
    t.cfg = s.cfg := by
  obtain ⟨_, -, -, -, rfl⟩ | ⟨-, -, -, rfl⟩ | ⟨-, rfl⟩ := submit_next h <;> rfl

theorem hostStep_cfg {s t : State} (h : hostStep s = .next t) : t.cfg = s.cfg := by
  obtain ⟨-, rfl⟩ | ⟨c, rest, -, h⟩ | ⟨rest, -, h⟩ | ⟨rest, -, h⟩ | ⟨rest, -, rfl⟩ := hostStep_next h
  · rfl
  · rw [exec_eq_submit] at h
    exact (submit_cfg h :)
  · obtain ⟨_, -, -, rfl⟩ | ⟨-, rfl⟩ := collect_next h <;> rfl
  · obtain ⟨_, -, rfl⟩ := readStatus_next h
    rfl
  · rfl

/-- Settles O27: neither agent writes `cfg`, and the scheduler's choice does not. -/
theorem configurationNeverChanges : Obligations.ConfigurationNeverChanges := by
  intro s t h
  obtain hw | ⟨sched, draws, hu | hu⟩ := step_agent s
  · obtain ⟨-, rfl⟩ := waitStep_next (hw ▸ h)
    rfl
  · exact (hostStep_cfg (hu ▸ h) :)
  · obtain ⟨_, _, _, _, _, rfl⟩ := blockStep_writes (hu ▸ h)
    rfl

/-- The host's actions write `op` and `buf` only by a SUBMIT in IDLE and by RESET (R24, R25). -/
theorem hostStep_op_buf {s t : State} (h : hostStep s = .next t) :
    (t.op = s.op ∧ t.buf = s.buf) ∨
    (s.phase = .idle ∧ ∃ c, s.script.head? = some (.submit c)) ∨
    s.script.head? = some .reset := by
  obtain ⟨-, rfl⟩ | ⟨c, rest, hs, h⟩ | ⟨rest, -, h⟩ | ⟨rest, -, h⟩ | ⟨rest, hs, -⟩ := hostStep_next h
  · exact .inl ⟨rfl, rfl⟩
  · rw [exec_eq_submit] at h
    obtain ⟨_, hp, -⟩ | ⟨-, -, -, rfl⟩ | ⟨-, rfl⟩ := submit_next h
    · exact .inr (.inl ⟨hp, c, by simp [hs]⟩)
    · exact .inl ⟨rfl, rfl⟩
    · exact .inl ⟨rfl, rfl⟩
  · obtain ⟨_, -, -, rfl⟩ | ⟨-, rfl⟩ := collect_next h <;> exact .inl ⟨rfl, rfl⟩
  · obtain ⟨_, -, rfl⟩ := readStatus_next h
    exact .inl ⟨rfl, rfl⟩
  · exact .inr (.inr (by simp [hs]))

/-- Settles O31: a BLOCK step writes neither field, and of the host's actions only those two do. -/
theorem operandAndOperationOnlyFromSubmit : Obligations.OperandAndOperationOnlyFromSubmit := by
  intro s t h
  obtain hw | ⟨sched, draws, hu | hu⟩ := step_agent s
  · obtain ⟨-, rfl⟩ := waitStep_next (hw ▸ h)
    exact .inl ⟨rfl, rfl⟩
  · exact (hostStep_op_buf (hu ▸ h) :)
  · obtain ⟨_, _, _, _, _, rfl⟩ := blockStep_writes (hu ▸ h)
    exact .inl ⟨rfl, rfl⟩

end Sys2Proof.Machine
end

section
/-! The invariant of reachable states (10_state.md R31, R35): the engine's steps keep it, each agent's step
keeps it, and no step from it faults. -/

namespace Sys2Proof.Machine

/-! ## The engine's part -/

theorem engineInv_start (bs : List Byte) : EngineInv bs 0 0 crcInit :=
  ⟨Nat.zero_le _, by decide, fun _ => rfl, fun h => absurd h (by decide)⟩

theorem EngineInv.absorb {bs : List Byte} {i : Nat} {c : Word16} {b : Byte} (h : EngineInv bs i 0 c)
    (hb : bs[i]? = some b) : EngineInv bs (i + 1) 8 (absorbByte c b) := by
  obtain ⟨-, -, hc, -⟩ := h
  obtain ⟨hlt, -⟩ := List.getElem?_eq_some_iff.mp hb
  exact ⟨hlt, le_rfl, nofun, fun _ => ⟨i, b, rfl, hb, by rw [hc rfl, Nat.sub_self, shiftN_zero]⟩⟩

/-- The last of the 8 shifts completes `updateByte` of the element absorbed; the others leave one fewer. -/
theorem EngineInv.shift {bs : List Byte} {i n : Nat} {c : Word16} (h : EngineInv bs i (n + 1) c) :
    EngineInv bs i n (shift1 c) := by
  obtain ⟨hi, hn, -, hc⟩ := h
  obtain ⟨j, b, rfl, hb, rfl⟩ := hc n.succ_pos
  have hshift : shift1 (shiftN (8 - (n + 1)) (absorbByte (crc16 (bs.take j)) b)) =
      shiftN (8 - n) (absorbByte (crc16 (bs.take j)) b) := by
    rw [← shiftN_succ, show 8 - (n + 1) + 1 = 8 - n by omega]
  refine ⟨hi, by omega, ?_, fun _ => ⟨j, b, rfl, hb, hshift⟩⟩
  rintro rfl
  rw [hshift, List.take_add_one, hb, Option.toList_some, crc16_snoc, updateByte]

theorem EngineInv.crc_eq {bs : List Byte} {c : Word16} (h : EngineInv bs bs.length 0 c) : c = crc16 bs := by
  obtain ⟨-, -, hc, -⟩ := h
  rw [hc rfl, List.take_length]

/-! ## The invariant and the fields it does not read -/

theorem State.Inv.resp_eq_none {s : State} (h : s.Inv) (hp : s.phase ≠ .done) : s.resp = none := by
  simpa [hp] using h.respInDone

/-- The invariant does not read the MODEL's own fields: the host's list, the scheduler's, the observations. -/
theorem State.Inv.with_agents {s : State} (h : s.Inv) (script : List HostAction) (sched : List Agent)
    (draws : Nat) (observed : List Observation) :
    State.Inv { s with script := script, schedule := sched, draws := draws, observed := observed } :=
  ⟨h.legalPhase, h.respInDone, h.bufCanonical, h.bufFits, h.busy, h.done⟩

/-- A write of the engine's fields in BUSY keeps the invariant where it keeps the engine's part. -/
theorem State.Inv.with_engine {s : State} (h : s.Inv) (hp : s.phase = .busy) {idx cnt : Option Nat}
    {crc : Option Word16} (hb : BusyInv { s with crc := crc, idx := idx, cnt := cnt }) :
    State.Inv { s with crc := crc, idx := idx, cnt := cnt } :=
  ⟨h.legalPhase, h.respInDone, h.bufCanonical, h.bufFits, fun _ => hb, fun hd => nomatch hp.symm.trans hd⟩

/-! ## The host's actions keep it -/

theorem resetBlock_inv (s : State) : (resetBlock s).Inv where
  legalPhase := by simp
  respInDone := by simp
  bufCanonical := by simp
  bufFits := by simp
  busy := by simp
  done := by simp

/-- Settles O38: the reset state is what RESET makes of it. -/
theorem invariantAtReset : Obligations.InvariantAtReset :=
  resetBlock_inv State.reset

theorem accept_inv {s : State} (h : s.Inv) (hp : s.phase = .idle) (o : Op) {bs : List Byte}
    (ha : admits s.cfg bs.length = true) : (accept o bs s).Inv where
  legalPhase := by simp
  respInDone := by simp [h.resp_eq_none (by simp [hp])]
  bufCanonical := by simp
  bufFits := by simpa using ha
  busy _ := ⟨o, _, 0, 0, crcInit, rfl, rfl, rfl, rfl, rfl, engineInv_start _⟩
  done := by simp

theorem submit_inv {o : Op} {data : List Int} {s t : State} (hs : s.Inv) (h : submit o data s = .next t) :
    t.Inv := by
  obtain ⟨bs, hp, ha, hd, rfl⟩ | ⟨-, -, -, rfl⟩ | ⟨-, rfl⟩ := submit_next h
  · obtain ⟨-, rfl⟩ := decodeData_some hd
    exact accept_inv hs hp o (by simpa using ha)
  · exact ⟨nofun, by simp, hs.bufCanonical, hs.bufFits, nofun, fun _ => .inl rfl⟩
  · exact hs

theorem collect_inv {s t : State} (hs : s.Inv) (h : collect s = .next t) : t.Inv := by
  obtain ⟨r, -, -, rfl⟩ | ⟨-, rfl⟩ := collect_next h
  · exact ⟨nofun, by simp, hs.bufCanonical, hs.bufFits, nofun, nofun⟩
  · exact hs

theorem hostStep_inv {s t : State} (hs : s.Inv) (h : hostStep s = .next t) : t.Inv := by
  have hrest (rest) : State.Inv { s with script := rest } := hs.with_agents _ _ _ _
  obtain ⟨-, rfl⟩ | ⟨c, rest, -, h⟩ | ⟨rest, -, h⟩ | ⟨rest, -, h⟩ | ⟨rest, -, rfl⟩ := hostStep_next h
  · exact hs
  · rw [exec_eq_submit] at h
    exact submit_inv (hrest rest) h
  · exact collect_inv (hrest rest) h
  · obtain ⟨b, -, rfl⟩ := readStatus_next h
    exact hs.with_agents _ _ _ _
  · exact resetBlock_inv _

/-! ## The BLOCK's steps keep it -/

/-- `BusyInv` of a state whose fields are known is the engine's part at their values. -/
theorem BusyInv.engine {s : State} {m : Memory} {i n : Nat} {c : Word16} (h : BusyInv s)
    (hm : s.buf = some m) (hi : s.idx = some i) (hn : s.cnt = some n) (hc : s.crc = some c) :
    EngineInv (Memory.bytes m) i n c := by
  obtain ⟨_, _, _, _, _, -, hm', hi', hn', hc', he⟩ := h
  simp_all

theorem absorb_inv {s t : State} (hs : s.Inv) (h : absorb s = .next t) : t.Inv := by
  obtain ⟨i, m, c, b, hp, hn, hi, hm, hc, -, hb, rfl⟩ | rfl := absorb_next h
  · obtain ⟨o, _, _, _, _, ho, -⟩ := hs.busy hp
    have he := (hs.busy hp).engine hm hi hn hc
    rw [Memory.read_of_wf (hs.bufCanonical m hm)] at hb
    exact hs.with_engine hp ⟨o, m, _, _, _, ho, hm, rfl, rfl, rfl, he.absorb hb⟩
  · exact hs

theorem shift_inv {s t : State} (hs : s.Inv) (h : shift s = .next t) : t.Inv := by
  obtain ⟨n, c, hp, hn, hc, rfl⟩ | rfl := shift_next h
  · obtain ⟨o, m, i, _, _, ho, hm, hi, -⟩ := hs.busy hp
    have he := (hs.busy hp).engine hm hi hn hc
    exact hs.with_engine hp ⟨o, m, i, _, _, ho, hm, hi, rfl, rfl, he.shift⟩
  · exact hs

theorem finish_inv {s t : State} (hs : s.Inv) (h : finish s = .next t) : t.Inv := by
  obtain ⟨m, o, c, hp, hn, hi, hm, ho, hc, rfl⟩ | rfl := finish_next h
  · have he := (hs.busy hp).engine hm hi hn hc
    rw [Memory.size_eq_length_bytes] at he
    cases he.crc_eq
    exact ⟨nofun, by simp, hs.bufCanonical, hs.bufFits, nofun, fun _ => .inr ⟨o, m, ho, hm, rfl⟩⟩
  · exact hs

theorem blockStep_inv {s t : State} (hs : s.Inv) (h : blockStep s = .next t) : t.Inv := by
  obtain h | h | h | rfl := blockStep_next h
  · exact absorb_inv hs h
  · exact shift_inv hs h
  · exact finish_inv hs h
  · exact hs

/-- Settles O39: each agent's step keeps the invariant, which does not read the scheduler's fields. -/
theorem everyStepKeepsTheInvariant : Obligations.EveryStepKeepsTheInvariant := by
  intro s t hs h
  obtain hw | ⟨sched, draws, hu | hu⟩ := step_agent s
  · obtain ⟨-, rfl⟩ := waitStep_next (hw ▸ h)
    exact hs
  · exact hostStep_inv (hs.with_agents _ sched draws _) (hu ▸ h)
  · exact blockStep_inv (hs.with_agents _ sched draws _) (hu ▸ h)

/-! ## No step from it faults -/

theorem whenPhase_answers {p : Phase} {s : State} {k : Result} (hu : s.phase ≠ .unused)
    (hk : s.phase = p → ∃ t, k = .next t) : ∃ t, whenPhase p s k = .next t := by
  by_cases hp : s.phase = p
  · rw [whenPhase_same hp (hp ▸ hu)]
    exact hk hp
  · exact ⟨s, whenPhase_other hp hu k⟩

theorem submit_answers {s : State} (hu : s.phase ≠ .unused) (o : Op) (data : List Int) :
    ∃ t, submit o data s = .next t := by
  refine whenPhase_answers hu fun _ => ?_
  split
  · split
    · exact ⟨_, rfl⟩
    · exact ⟨_, rfl⟩
  · exact ⟨_, rfl⟩

theorem State.Inv.resp_of_done {s : State} (hs : s.Inv) (hp : s.phase = .done) : ∃ r, s.resp = some r :=
  Option.isSome_iff_exists.mp (hs.respInDone.mpr hp)

theorem collect_answers {s : State} (hs : s.Inv) : ∃ t, collect s = .next t := by
  refine whenPhase_answers hs.legalPhase fun hp => ?_
  obtain ⟨r, hr⟩ := hs.resp_of_done hp
  exact ⟨_, by rw [hr, readField_some]⟩

theorem statusView_answers {s : State} (hs : s.Inv) : ∃ b, statusView s = .ok b := by
  cases hp : s.phase with
  | idle => exact ⟨_, statusView_idle hp⟩
  | busy => exact ⟨_, statusView_busy hp⟩
  | unused => exact absurd hp hs.legalPhase
  | done =>
    obtain ⟨r | c, hr⟩ := hs.resp_of_done hp
    · exact ⟨_, statusView_done_ok hp hr⟩
    · exact ⟨_, statusView_done_err hp hr⟩

theorem hostStep_answers {s : State} (hs : s.Inv) : ∃ t, hostStep s = .next t := by
  unfold hostStep
  split
  · exact ⟨s, rfl⟩
  · rw [exec_eq_submit]
    exact submit_answers (hs.with_agents _ _ _ _).legalPhase _ _
  · exact collect_answers (hs.with_agents _ _ _ _)
  · obtain ⟨b, hb⟩ := statusView_answers (hs.with_agents _ _ _ _)
    exact ⟨_, readStatus_eq_next hb⟩
  · exact ⟨_, rfl⟩

/-- In BUSY every field the engine reads holds a value, and ABSORB's element is in the buffer. -/
theorem blockStep_answers {s : State} (hs : s.Inv) : ∃ t, blockStep s = .next t := by
  by_cases hp : s.phase = .busy
  · obtain ⟨o, m, i, n, c, ho, hm, hi, hn, hc, hle, -⟩ := hs.busy hp
    cases n with
    | succ n => exact ⟨_, blockStep_shift hp hn hc⟩
    | zero =>
      obtain hlt | heq := Nat.lt_or_eq_of_le hle
      · have hread : Memory.read m i = some (Memory.bytes m)[i] := by
          rw [Memory.read_of_wf (hs.bufCanonical m hm), List.getElem?_eq_getElem hlt]
        exact ⟨_, blockStep_absorb hp hn hi hm hc (Memory.size_eq_length_bytes m ▸ hlt) hread⟩
      · rw [← Memory.size_eq_length_bytes] at heq
        exact ⟨_, blockStep_finish hp hn (heq ▸ hi) hm ho hc⟩
  · exact ⟨s, whenPhase_other hp hs.legalPhase _⟩

/-- Settles O40: each agent's step answers next from the invariant, and so does waiting in a legal phase. -/
theorem noStepFaultsFromTheInvariant : Obligations.NoStepFaultsFromTheInvariant := by
  intro s hs
  obtain hw | ⟨sched, draws, hu | hu⟩ := step_agent s
  · exact ⟨s, by rw [hw, waitStep, if_neg hs.legalPhase, hold_eq]⟩
  · exact hu ▸ hostStep_answers (hs.with_agents _ sched draws _)
  · exact hu ▸ blockStep_answers (hs.with_agents _ sched draws _)

end Sys2Proof.Machine
end

section
/-! Where no agent's action is enabled (20_memory.md R47, 40_command_protocol.md R87, R91): a SUBMIT longer than
MAX_LEN, and a step with nothing to take. -/

namespace Sys2Proof.Machine

/-! ## A SUBMIT longer than MAX_LEN -/

theorem admits_eq_false {c : Config} {m n : Nat} (hm : c.maxLen = some m) (hlt : m < n) :
    admits c n = false := by
  simp [admits, hm, hlt]

/-- In IDLE the length test fails before any element is looked at (log 9); elsewhere the phase does not match. -/
theorem submit_not_admitted {s : State} {data : List Int} (hu : s.phase ≠ .unused)
    (ha : admits s.cfg data.length = false) (o : Op) : submit o data s = .next s := by
  by_cases hp : s.phase = .idle
  · rw [submit, whenPhase_same hp (by decide), ha, if_neg Bool.false_ne_true, hold_eq]
  · exact whenPhase_other hp hu _

/-- Settles O10: every instruction is a SUBMIT, which `admits` refuses. -/
theorem overlongSubmitIsNotAdmitted : Obligations.OverlongSubmitIsNotAdmitted := by
  intro i s m hu hm hlt
  rw [exec_eq_submit]
  exact submit_not_admitted hu (admits_eq_false hm hlt) _

/-! ## When the host's next action is enabled -/

theorem hostReady_nil {s : State} (hs : s.script = []) : hostReady s = false := by
  simp [hostReady, hs]

theorem hostReady_submit {s : State} {c : Command} {rest : List HostAction} (hs : s.script = .submit c :: rest) :
    hostReady s = (decide (s.phase = .idle) && admits s.cfg c.data.length) := by
  simp [hostReady, hs]

theorem hostReady_collect {s : State} {rest : List HostAction} (hs : s.script = .collect :: rest) :
    hostReady s = decide (s.phase = .done) := by
  simp [hostReady, hs]

/-! ## A step with nothing enabled -/

theorem step_eq_self {s : State} (hu : s.phase ≠ .unused) (hh : hostReady s = false)
    (hb : blockReady s = false) : step s = .next s := by
  rw [step_wait hh hb, waitStep, if_neg hu, hold_eq]

/-- In IDLE and DONE the BLOCK has no step (R91), so only the host can move the state. -/
theorem step_eq_self_of_host_waits {s : State} (hp : s.phase = .idle ∨ s.phase = .done)
    (hh : hostReady s = false) : step s = .next s := by
  obtain ⟨hu, hb⟩ : s.phase ≠ .unused ∧ s.phase ≠ .busy := by
    obtain hp | hp := hp <;> simp [hp]
  exact step_eq_self hu hh (blockReady_eq_false hb)

/-- Settles O29: in each clause after the first the host's next action is missing or disabled. -/
theorem nothingEnabledNothingChanges : Obligations.NothingEnabledNothingChanges := by
  intro s
  refine ⟨step_eq_self, ?noAction, ?submitInDone, ?collectInIdle, ?overlong⟩
  case noAction =>
    rintro ⟨hp, hs⟩
    exact step_eq_self_of_host_waits hp (hostReady_nil hs)
  case submitInDone =>
    intro c rest hp hs
    exact step_eq_self_of_host_waits (.inr hp) (by simp [hostReady_submit hs, hp])
  case collectInIdle =>
    intro rest hp hs
    exact step_eq_self_of_host_waits (.inl hp) (by simp [hostReady_collect hs, hp])
  case overlong =>
    intro c rest m hp hs hm hlt
    exact step_eq_self_of_host_waits hp (by simp [hostReady_submit hs, admits_eq_false hm hlt])

end Sys2Proof.Machine
end

section
/-! The run of the BLOCK from an accepted SUBMIT to DONE (40_command_protocol.md R88): 9 steps for each element
and one FINISH, which answers the result of the operation on the bytes (R85, 41_checksum_engine.md R104). -/

namespace Sys2Proof.Machine

/-- `s` while the BLOCK computes operation `o` on `bs`: `i` elements absorbed, `n` shifts left, register `c`. -/
def computing (o : Op) (bs : List Byte) (i n : Nat) (c : Word16) (s : State) : State :=
  { s with
    op := some o, buf := some (Memory.ofBytes bs), idx := some i, cnt := some n, crc := some c, phase := .busy }

/-- `s` with the response of operation `o` on `bs`, as FINISH leaves it (R85). -/
def answered (o : Op) (bs : List Byte) (s : State) : State :=
  { s with
    op := some o, buf := some (Memory.ofBytes bs), idx := some bs.length, cnt := some 0, crc := some (crc16 bs),
    phase := .done, resp := some (result o s.cfg.frameMode bs (crc16 bs)) }

@[simp] theorem computing_phase (o : Op) (bs : List Byte) (i n : Nat) (c : Word16) (s : State) :
    (computing o bs i n c s).phase = .busy := rfl

@[simp] theorem answered_phase (o : Op) (bs : List Byte) (s : State) : (answered o bs s).phase = .done := rfl

@[simp] theorem answered_resp (o : Op) (bs : List Byte) (s : State) :
    (answered o bs s).resp = some (result o s.cfg.frameMode bs (crc16 bs)) := rfl

theorem accept_eq_computing (o : Op) (bs : List Byte) (s : State) :
    accept o bs s = computing o bs 0 0 crcInit s := rfl

/-! ## One step -/

theorem blockStep_computing_shift (o : Op) (bs : List Byte) (i n : Nat) (c : Word16) (s : State) :
    blockStep (computing o bs i (n + 1) c s) = .next (computing o bs i n (shift1 c) s) :=
  blockStep_shift rfl rfl rfl

theorem blockStep_computing_absorb {bs : List Byte} {i : Nat} {b : Byte} (hb : bs[i]? = some b) (o : Op)
    (c : Word16) (s : State) :
    blockStep (computing o bs i 0 c s) = .next (computing o bs (i + 1) 8 (absorbByte c b) s) := by
  obtain ⟨hlt, -⟩ := List.getElem?_eq_some_iff.mp hb
  exact blockStep_absorb rfl rfl rfl rfl rfl (by simpa using hlt) (by simpa using hb)

theorem blockStep_computing_finish (o : Op) (bs : List Byte) (s : State) :
    blockStep (computing o bs bs.length 0 (crc16 bs) s) = .next (answered o bs s) := by
  have hidx : (computing o bs bs.length 0 (crc16 bs) s).idx = some (Memory.size (Memory.ofBytes bs)) := by
    simp [computing]
  rw [blockStep_finish rfl rfl hidx rfl rfl rfl, Memory.ofBytes_bytes]
  rfl

/-! ## The steps of an element, and of all of them -/

theorem runSteps_computing_shifts (o : Op) (bs : List Byte) (i n k : Nat) (c : Word16) (s : State) :
    runSteps blockStep k (computing o bs i (n + k) c s) = .next (computing o bs i n (shiftN k c) s) := by
  induction k generalizing c with
  | zero => rfl
  | succ k ih =>
    rw [← Nat.add_assoc, runSteps_succ (blockStep_computing_shift o bs i (n + k) c s)]
    exact ih (shift1 c)

/-- One ABSORB and 8 SHIFTs are `updateByte` (R104). -/
theorem runSteps_computing_element {bs : List Byte} {i : Nat} {b : Byte} (hb : bs[i]? = some b) (o : Op)
    (c : Word16) (s : State) :
    runSteps blockStep 9 (computing o bs i 0 c s) = .next (computing o bs (i + 1) 0 (updateByte c b) s) := by
  rw [runSteps_succ (blockStep_computing_absorb hb o c s)]
  exact runSteps_computing_shifts o bs (i + 1) 0 8 _ s

/-- After the steps of the first `i` elements `crc` is their checksum (R35). -/
theorem runSteps_computing_elements {bs : List Byte} {i : Nat} (hi : i ≤ bs.length) (o : Op) (s : State) :
    runSteps blockStep (9 * i) (computing o bs 0 0 crcInit s) =
      .next (computing o bs i 0 (crc16 (bs.take i)) s) := by
  induction i with
  | zero => rfl
  | succ i ih =>
    have hb : bs[i]? = some bs[i] := List.getElem?_eq_getElem hi
    rw [Nat.mul_succ, runSteps_add (ih (Nat.le_of_succ_le hi)), runSteps_computing_element hb,
      List.take_add_one, hb, Option.toList_some, crc16_snoc]

/-- R88: 9n + 1 BLOCK steps take an accepted command to its response. -/
theorem runSteps_accept (o : Op) (bs : List Byte) (s : State) :
    runSteps blockStep (9 * bs.length + 1) (accept o bs s) = .next (answered o bs s) := by
  rw [accept_eq_computing, runSteps_add (runSteps_computing_elements le_rfl o s), List.take_length,
    runSteps_succ (blockStep_computing_finish o bs s), runSteps_zero]

/-- Settles O43: both runs end with the result of the operation on the bytes, in which only the frame mode of
the state they began in appears. -/
theorem responseDependsOnlyOnTheCommand : Obligations.ResponseDependsOnlyOnTheCommand := by
  intro s₁ s₂ i bs hd hp₁ hp₂ hcfg ha
  refine ⟨_, _, _, _, exec_eq_accept hd hp₁ ha, exec_eq_accept hd hp₂ (hcfg ▸ ha),
    runSteps_accept _ bs s₁, runSteps_accept _ bs s₂, ?same, ?answer⟩
  case same => rw [answered_resp, answered_resp, hcfg]
  case answer => simp

end Sys2Proof.Machine
end

section
/-! Operand decoding (30_encoding.md R63): DATA is captured as the bytes of the same values, or not at all. -/

namespace Sys2Proof.Machine

theorem validElement_iff (e : Int) : validElement e = true ↔ 0 ≤ e ∧ e ≤ 255 := by
  simp [validElement]

theorem not_validElement_iff (e : Int) : ¬ validElement e = true ↔ e < 0 ∨ 255 < e := by
  rw [validElement_iff]
  omega

theorem toNat_toByte {e : Int} (h : validElement e = true) : ((toByte e).toNat : Int) = e := by
  obtain ⟨hnonneg, hle⟩ := (validElement_iff e).mp h
  rw [toByte, BitVec.toNat_ofInt]
  omega

theorem asElements_map_toByte {data : List Int} (h : ∀ e ∈ data, validElement e = true) :
    asElements (data.map toByte) = data := by
  rw [asElements, List.map_map]
  exact (List.map_congr_left fun e he => toNat_toByte (h e he)).trans (List.map_id data)

theorem decodeData_eq_some_iff {data : List Int} {bs : List Byte} :
    decodeData data = some bs ↔ data = asElements bs := by
  constructor
  · intro h
    obtain ⟨hvalid, rfl⟩ := decodeData_some h
    exact (asElements_map_toByte hvalid).symm
  · rintro rfl
    exact decodeData_asElements bs

theorem decodeData_eq_none_iff {data : List Int} : decodeData data = none ↔ data.all validElement = false := by
  simp only [decodeData, ite_eq_right_iff, reduceCtorEq, imp_false, Bool.not_eq_true]

/-- Settles O5: `toByte` and the value of a byte are inverse to each other on valid elements, and `decodeData`
gives none exactly when the element check fails. -/
theorem dataIsCapturedExactly : Obligations.DataIsCapturedExactly := by
  refine ⟨fun data bs => decodeData_eq_some_iff, fun data => ?_⟩
  simp only [decodeData_eq_none_iff, List.all_eq_false, not_validElement_iff]

end Sys2Proof.Machine
end

section
/-! The command words (30_encoding.md R60 to R62, R67): decoding, encoding and the opcode table agree, and a word
placed for the next step is what it runs. -/

namespace Sys2Proof.Machine

/-! ## Decoding and encoding a command -/

theorem decode_opCompute (data : List Int) : decode { cmd := opCompute, data := data } = .compute data := rfl

theorem decode_opFrame (data : List Int) : decode { cmd := opFrame, data := data } = .frame data := rfl

theorem decode_opFrameComplete (data : List Int) :
    decode { cmd := opFrameComplete, data := data } = .frameComplete data := rfl

theorem decode_opVerify (data : List Int) : decode { cmd := opVerify, data := data } = .verify data := rfl

/-- Every value of OP is assigned (R62). -/
theorem cmd_eq_op (cmd : BitVec 2) :
    cmd = opCompute ∨ cmd = opFrame ∨ cmd = opFrameComplete ∨ cmd = opVerify := by
  revert cmd
  decide

@[simp] theorem decode_encode (i : Instr) : decode (encode i) = i := by
  cases i with
  | compute data => exact decode_opCompute data
  | frame data => exact decode_opFrame data
  | frameComplete data => exact decode_opFrameComplete data
  | verify data => exact decode_opVerify data

@[simp] theorem encode_decode (c : Command) : encode (decode c) = c := by
  obtain ⟨cmd, data⟩ := c
  obtain rfl | rfl | rfl | rfl := cmd_eq_op cmd
  · rw [decode_opCompute, encode]
  · rw [decode_opFrame, encode]
  · rw [decode_opFrameComplete, encode]
  · rw [decode_opVerify, encode]

/-- Settles O1 (R62): one equation of `decode` for each operation code. -/
theorem decodeFollowsTheOpTable : Obligations.DecodeFollowsTheOpTable := fun data =>
  ⟨decode_opCompute data, decode_opFrame data, decode_opFrameComplete data, decode_opVerify data⟩

/-- Settles O2: by the four instructions, and by the four values of OP. -/
theorem decodeAndEncodeAgree : Obligations.DecodeAndEncodeAgree :=
  ⟨decode_encode, encode_decode⟩

/-! ## The opcode table -/

theorem opcodeRow_statement (i : Instr) : Laws.OpcodeRow.Statement i := by
  cases i with
  | compute data => exact Laws.OpcodeRow.compute data
  | frame data => exact Laws.OpcodeRow.frame data
  | frameComplete data => exact Laws.OpcodeRow.frameComplete data
  | verify data => exact Laws.OpcodeRow.verify data

theorem decode_data (c : Command) : (decode c).data = c.data := by
  obtain ⟨-, hdata⟩ := opcodeRow_statement (decode c)
  rw [← hdata, encode_decode]

/-- Settles O4: every command word is the word of the instruction it decodes to, whose row is the only one that
covers it. -/
theorem oneTableRowCoversEachWord : Obligations.OneTableRowCoversEachWord := by
  intro cmd data
  obtain ⟨hrows, -⟩ := opcodeRow_statement (decode { cmd := cmd, data := data })
  rwa [encode_decode] at hrows

/-! ## Words as the table numbers them -/

theorem decodeTableWord_of_lt {nbits w : Nat} (h : w % 2 ^ nbits < 4) :
    decodeTableWord nbits w = some (decode { cmd := BitVec.ofNat 2 (w % 2 ^ nbits), data := [] }) := by
  rw [decodeTableWord, decodeWord, if_pos h]

/-- A word with a bit above bit 1 is no command word (R60, log 13). -/
theorem decodeTableWord_of_le {nbits w : Nat} (h : 4 ≤ w % 2 ^ nbits) : decodeTableWord nbits w = none := by
  rw [decodeTableWord, decodeWord, if_neg (Nat.not_lt.mpr h)]

/-- The table gives DATA no bits (R67). -/
theorem data_of_decodeTableWord {nbits w : Nat} {i : Instr} (h : decodeTableWord nbits w = some i) :
    i.data = [] := by
  obtain hlt | hle := Nat.lt_or_ge (w % 2 ^ nbits) 4
  · rw [decodeTableWord_of_lt hlt, Option.some_inj] at h
    rw [← h, decode_data]
  · rw [decodeTableWord_of_le hle] at h
    cases h

/-- Settles O3: the table's words are below 4, and a byte's other values are not. -/
theorem tableWordsDecode : Obligations.TableWordsDecode := by
  refine ⟨decodeTableWord_of_lt (by decide), decodeTableWord_of_lt (by decide),
    decodeTableWord_of_lt (by decide), decodeTableWord_of_lt (by decide), fun w hle hlt => ?_⟩
  have hmod : w % 2 ^ 8 = w := Nat.mod_eq_of_lt hlt
  exact decodeTableWord_of_le (hmod.symm ▸ hle)

/-! ## A placed word -/

/-- R81: an enabled SUBMIT is what the step takes, since no BLOCK step is enabled in IDLE (R91). -/
theorem step_submit {s : State} {c : Command} {rest : List HostAction} (hs : s.script = .submit c :: rest)
    (hp : s.phase = .idle) (ha : admits s.cfg c.data.length = true) :
    step s = exec (decode c) { s with script := rest } := by
  have hh : hostReady s = true := by simp [hostReady_submit hs, hp, ha]
  rw [step_host hh (blockReady_eq_false (by simp [hp])), hostStep_submit hs]

@[simp] theorem admits_zero (c : Config) : admits c 0 = true := by
  cases hm : c.maxLen <;> simp [admits, hm]

theorem step_placeCommand {c : Command} (hd : c.data = []) (s : State) :
    step (placeCommand s c) = exec (decode c) { s with phase := .idle } :=
  step_submit (placeCommand_script s c) (placeCommand_phase s c) (by simp [hd])

/-- Settles O18: the placed command is the encoding of the word's instruction, and its empty DATA is within every
MAX_LEN. -/
theorem placedWordRunsNext : Obligations.PlacedWordRunsNext := by
  intro s nbits w i hw
  obtain ⟨-, hdata⟩ := opcodeRow_statement i
  have hd : (encode i).data = [] := hdata.trans (data_of_decodeTableWord hw)
  rw [State.withFetchWord, hw]
  simpa only [decode_encode] using step_placeCommand hd s

end Sys2Proof.Machine
end

section
/-! Which commands SUBMIT accepts and which it answers with the error (30_encoding.md R63, 40_command_protocol.md
R81, R82), in the terms of WellFormed. -/

namespace Sys2Proof.Machine

/-- An admitted SUBMIT whose DATA cannot be captured, of any operation, makes the writes of R82. -/
theorem exec_eq_reject {i : Instr} {s : State} (hp : s.phase = .idle)
    (ha : admits s.cfg i.data.length = true) (hd : decodeData i.data = none) :
    exec i s = .next { s with resp := some (.err .invalidByteValue), phase := .done } := by
  rw [exec_eq_submit, submit, whenPhase_same hp (by decide), if_pos ha, hd, raiseInvalidByteValue]

theorem exists_bytes_of_elementsInRange {i : Instr} (h : i.elementsInRange = true) :
    ∃ bs, i.data = asElements bs := by
  rw [elementsInRange_eq, List.all_eq_true] at h
  exact ⟨_, (asElements_map_toByte h).symm⟩

/-- Settles O12: elements in range are the values of bytes, so SUBMIT accepts; otherwise DATA is not captured and
SUBMIT rejects. -/
theorem wellFormedSaysWhatIsAccepted : Obligations.WellFormedSaysWhatIsAccepted := by
  intro i s hp hfits
  rw [fitsMaxLen_eq] at hfits
  refine ⟨fun hwf => ?accepted, fun hrange => ?rejected⟩
  case accepted =>
    obtain ⟨hrange, -⟩ := Bool.and_eq_true_iff.mp hwf
    obtain ⟨bs, hbs⟩ := exists_bytes_of_elementsInRange hrange
    rw [hbs, asElements_length] at hfits
    exact ⟨_, exec_eq_accept hbs hp hfits, accept_phase ..⟩
  case rejected =>
    rw [elementsInRange_eq, ← decodeData_eq_none_iff] at hrange
    exact ⟨_, exec_eq_reject hp hfits hrange, rfl, rfl⟩

end Sys2Proof.Machine
end

section
/-! The host's actions and the scheduler (40_command_protocol.md R80 to R83, R86, R92): what a SUBMIT answers in
each phase, what COLLECT gives back, and what the host observes. -/

namespace Sys2Proof.Machine

/-! ## SUBMIT -/

/-- Settles O6: an element outside 0 .. 255 anywhere keeps DATA from being captured. -/
theorem rejectedSubmitWritesOnlyTheError : Obligations.RejectedSubmitWritesOnlyTheError := by
  intro i s hp ha hinvalid
  obtain ⟨-, hnone⟩ := dataIsCapturedExactly
  exact exec_eq_reject hp ha ((hnone i.data).mpr hinvalid)

/-- Settles O7: the writes of R83 are those of `accept`. -/
theorem acceptedSubmitLatchesTheCommand : Obligations.AcceptedSubmitLatchesTheCommand := by
  intro i bs s hd hp ha
  exact exec_eq_accept hd hp ha

/-- Settles O9: every instruction is a SUBMIT, which only IDLE enables. -/
theorem submitHoldsOutsideIdle : Obligations.SubmitHoldsOutsideIdle := by
  intro i s hp
  obtain ⟨hi, hu⟩ : s.phase ≠ .idle ∧ s.phase ≠ .unused := by
    obtain hp | hp := hp <;> simp [hp]
  rw [exec_eq_submit]
  exact whenPhase_other hi hu _

/-- Settles O17: in IDLE the BLOCK has no step, so the enabled SUBMIT is what the step takes. -/
theorem stepRunsTheSubmittedCommand : Obligations.StepRunsTheSubmittedCommand :=
  fun _ _ _ hs hp ha => step_submit hs hp ha

/-! ## COLLECT -/

theorem collect_done {s : State} {r : Response} (hp : s.phase = .done) (hr : s.resp = some r) :
    collect s = .next { s with observed := s.observed ++ [.response r], resp := none, phase := .idle } := by
  rw [collect, whenPhase_same hp (by decide), hr, readField_some]

/-- In DONE the BLOCK has no step, so the step takes the host's COLLECT (R86). -/
theorem step_collect {s : State} {rest : List HostAction} {r : Response} (hs : s.script = .collect :: rest)
    (hp : s.phase = .done) (hr : s.resp = some r) :
    step s = .next { s with
      script := rest, observed := s.observed ++ [.response r], resp := none, phase := .idle } := by
  have hh : hostReady s = true := by simp [hostReady_collect hs, hp]
  rw [step_host hh (blockReady_eq_false (by simp [hp]))]
  simp only [hostStep, hs]
  exact collect_done (s := { s with script := rest }) hp hr

theorem hostStep_reset {s : State} {rest : List HostAction} (hs : s.script = .reset :: rest) :
    hostStep s = .next (resetBlock { s with script := rest }) := by
  simp only [hostStep, hs]

/-- Settles O19, phase by phase: COLLECT is enabled in DONE only. -/
theorem collectReturnsTheResponseOnce : Obligations.CollectReturnsTheResponseOnce := by
  intro s rest hs
  refine ⟨fun r hp hr => ⟨step_collect hs hp hr, ?second⟩, ?idle, ?busy⟩
  case second => exact whenPhase_other (by simp) (by simp) _
  case idle =>
    intro hp
    exact step_eq_self_of_host_waits (.inl hp) (by simp [hostReady_collect hs, hp])
  case busy =>
    intro hp hb
    exact step_block (by simp [hostReady_collect hs, hp]) hb

/-! ## The scheduler's choice -/

/-- Settles O28: readiness does not read the scheduler's fields, so `step_choice` speaks of every schedule. -/
theorem schedulerMayTakeEitherAgent : Obligations.SchedulerMayTakeEitherAgent := by
  intro s hh hb
  have choice (later : List Agent) := step_choice (s := { s with schedule := later }) hh hb
  refine ⟨fun later => ?host, fun later => ?block, fun hs => ?free⟩
  case host => rw [choice, chooseAgent_of_schedule rfl]
  case block => rw [choice, chooseAgent_of_schedule rfl]
  case free =>
    rw [step_choice hh hb, chooseAgent_past_schedule hs]
    cases Config.freeAgent s.draws with
    | host => exact .inl rfl
    | block => exact .inr rfl

/-- Where a BLOCK step is enabled a step is that, or the host's enabled action, up to the scheduler's fields. -/
theorem step_of_blockReady {s : State} (hb : blockReady s = true) : ∃ sched draws,
    step s = blockStep { s with schedule := sched, draws := draws } ∨
    hostReady s = true ∧ step s = hostStep { s with schedule := sched, draws := draws } := by
  cases hh : hostReady s with
  | false => exact ⟨s.schedule, s.draws, .inl (step_block hh hb)⟩
  | true =>
    obtain ⟨sched, draws, hu⟩ := chooseAgent_snd s
    refine ⟨sched, draws, ?_⟩
    rw [step_choice hh hb, hu]
    cases (chooseAgent s).1 with
    | host => exact .inr ⟨rfl, rfl⟩
    | block => exact .inl rfl

/-- In BUSY only a STATUS read or a RESET can be the host's enabled action. -/
theorem hostReady_busy {s : State} (hp : s.phase = .busy) (h : hostReady s = true) :
    (∃ rest, s.script = .readStatus :: rest) ∨ ∃ rest, s.script = .reset :: rest := by
  unfold hostReady at h
  split at h
  · cases h
  · simp [hp] at h
  · simp [hp] at h
  · exact .inl ⟨_, ‹_›⟩
  · exact .inr ⟨_, ‹_›⟩

/-! ## What the host observes -/

theorem submit_observed {o : Op} {data : List Int} {s t : State} (h : submit o data s = .next t) :
    t.observed = s.observed := by
  obtain ⟨_, -, -, -, rfl⟩ | ⟨-, -, -, rfl⟩ | ⟨-, rfl⟩ := submit_next h <;> rfl

/-- The host's actions add one observation at most: COLLECT the response, a STATUS read the view (R92). -/
theorem hostStep_observed {s t : State} (h : hostStep s = .next t) :
    t.observed = s.observed ∨
    (s.script.head? = some .collect ∧
      ∃ r, s.phase = .done ∧ s.resp = some r ∧ t.observed = s.observed ++ [.response r]) ∨
    (s.script.head? = some .readStatus ∧ ∃ b, statusView s = .ok b ∧ t.observed = s.observed ++ [.status b]) := by
  obtain ⟨-, rfl⟩ | ⟨c, rest, -, h⟩ | ⟨rest, hs, h⟩ | ⟨rest, hs, h⟩ | ⟨rest, -, rfl⟩ := hostStep_next h
  · exact .inl rfl
  · rw [exec_eq_submit] at h
    exact .inl (submit_observed h :)
  · obtain ⟨r, hp, hr, rfl⟩ | ⟨-, rfl⟩ := collect_next h
    · exact .inr (.inl ⟨by simp [hs], r, hp, hr, rfl⟩)
    · exact .inl rfl
  · obtain ⟨b, hv, rfl⟩ := readStatus_next h
    exact .inr (.inr ⟨by simp [hs], b, hv, rfl⟩)
  · exact .inl rfl

/-- Settles O30: a BLOCK step adds no observation, and the host's actions add those two. -/
theorem observationsComeFromCollectAndStatus : Obligations.ObservationsComeFromCollectAndStatus := by
  intro s t h
  obtain hw | ⟨sched, draws, hu | hu⟩ := step_agent s
  · obtain ⟨-, rfl⟩ := waitStep_next (hw ▸ h)
    exact .inl rfl
  · exact (hostStep_observed (hu ▸ h) :)
  · obtain ⟨_, _, _, _, _, rfl⟩ := blockStep_writes (hu ▸ h)
    exact .inl rfl

end Sys2Proof.Machine
end

section
/-! The steps of the BLOCK (40_command_protocol.md R84, R85): which one is enabled, what FINISH answers, and what
none of them writes. -/

namespace Sys2Proof.Machine

/-! ## Where a step is not enabled -/

theorem absorb_hold {s : State} {n i : Nat} {m : Memory} (hp : s.phase = .busy) (hn : s.cnt = some n)
    (hi : s.idx = some i) (hm : s.buf = some m) (hd : ¬ (n = 0 ∧ i < Memory.size m)) :
    absorb s = .next s := by
  rw [absorb, whenPhase_same hp (by decide), hn, hi, hm]
  exact if_neg hd

theorem shift_hold {s : State} (hp : s.phase = .busy) (hn : s.cnt = some 0) : shift s = .next s := by
  rw [shift, whenPhase_same hp (by decide), hn, readField_some, if_neg (Nat.lt_irrefl 0), hold_eq]

theorem finish_hold {s : State} {n i : Nat} {m : Memory} (hp : s.phase = .busy) (hn : s.cnt = some n)
    (hi : s.idx = some i) (hm : s.buf = some m) (hd : ¬ (n = 0 ∧ i = Memory.size m)) :
    finish s = .next s := by
  rw [finish, whenPhase_same hp (by decide), hn, hi, hm]
  exact if_neg hd

/-- Outside BUSY every BLOCK step holds (R91). -/
theorem block_quiescent {s : State} (hp : s.phase = .idle ∨ s.phase = .done) :
    blockStep s = .next s ∧ absorb s = .next s ∧ shift s = .next s ∧ finish s = .next s := by
  obtain ⟨hb, hu⟩ : s.phase ≠ .busy ∧ s.phase ≠ .unused := by
    obtain hp | hp := hp <;> simp [hp]
  exact ⟨whenPhase_other hb hu _, whenPhase_other hb hu _, whenPhase_other hb hu _, whenPhase_other hb hu _⟩

/-! ## Which step a BLOCK step is -/

theorem blockStep_eq_shift {s : State} {n : Nat} (hp : s.phase = .busy) (hn : s.cnt = some (n + 1)) :
    blockStep s = shift s := by
  rw [blockStep, whenPhase_same hp (by decide), hn, readField_some, if_pos n.succ_pos]

theorem blockStep_eq_absorb {s : State} {i : Nat} {m : Memory} (hp : s.phase = .busy) (hn : s.cnt = some 0)
    (hi : s.idx = some i) (hm : s.buf = some m) (hlt : i < Memory.size m) : blockStep s = absorb s := by
  rw [blockStep, whenPhase_same hp (by decide), hn, hi, hm]
  exact if_pos hlt

theorem blockStep_eq_finish {s : State} {m : Memory} (hp : s.phase = .busy) (hn : s.cnt = some 0)
    (hi : s.idx = some (Memory.size m)) (hm : s.buf = some m) : blockStep s = finish s := by
  rw [blockStep, whenPhase_same hp (by decide), hn, hi, hm]
  simp

theorem Memory.exists_read {m : Memory} (hm : Memory.wf m = true) {i : Nat} (hlt : i < Memory.size m) :
    ∃ b, Memory.read m i = some b := by
  rw [Memory.size_eq_length_bytes] at hlt
  exact ⟨_, (Memory.read_of_wf hm i).trans (List.getElem?_eq_getElem hlt)⟩

/-- Settles O32: by the cases of `cnt` and, where it is 0, of `idx`; each step changes `cnt` or `phase`. -/
theorem exactlyOneBlockStepInBusy : Obligations.ExactlyOneBlockStepInBusy := by
  refine ⟨fun s hs hp => ?_, fun s hp => block_quiescent hp⟩
  obtain ⟨o, m, i, n, c, ho, hm, hi, hn, hc, hle, -⟩ := hs.busy hp
  rw [← Memory.size_eq_length_bytes] at hle
  cases n with
  | succ n =>
    have hw := blockStep_shift hp hn hc
    refine ⟨n + 1, i, m, _, hn, hi, hm, hw, fun h => ?_, .inr (.inl ⟨n.succ_pos, ?_,
      absorb_hold hp hn hi hm (by omega), finish_hold hp hn hi hm (by omega)⟩)⟩
    · simpa [hn] using congrArg State.cnt h
    · rw [← blockStep_eq_shift hp hn, hw]
  | zero =>
    obtain hlt | rfl := Nat.lt_or_eq_of_le hle
    · obtain ⟨b, hread⟩ := Memory.exists_read (hs.bufCanonical m hm) hlt
      have hw := blockStep_absorb hp hn hi hm hc hlt hread
      refine ⟨0, i, m, _, hn, hi, hm, hw, fun h => ?_, .inl ⟨rfl, hlt, ?_, shift_hold hp hn,
        finish_hold hp hn hi hm (by omega)⟩⟩
      · simpa [hn] using congrArg State.cnt h
      · rw [← blockStep_eq_absorb hp hn hi hm hlt, hw]
    · have hw := blockStep_finish hp hn hi hm ho hc
      refine ⟨0, _, m, _, hn, hi, hm, hw, fun h => ?_, .inr (.inr ⟨rfl, rfl, ?_,
        absorb_hold hp hn hi hm (by omega), shift_hold hp hn⟩)⟩
      · simpa [hp] using congrArg State.phase h
      · rw [← blockStep_eq_finish hp hn hi hm, hw]

/-! ## FINISH -/

theorem finish_eq {s : State} {m : Memory} {o : Op} {c : Word16} (hp : s.phase = .busy)
    (hn : s.cnt = some 0) (hi : s.idx = some (Memory.size m)) (hm : s.buf = some m) (ho : s.op = some o)
    (hc : s.crc = some c) :
    finish s = .next { s with
      resp := some (result o s.cfg.frameMode (Memory.bytes m) c), phase := .done } := by
  rw [← blockStep_eq_finish hp hn hi hm, blockStep_finish hp hn hi hm ho hc]

/-- Settles O35: where FINISH is enabled its response is `result`, which R85 lists by operation. -/
theorem finishFormsTheResponse : Obligations.FinishFormsTheResponse := by
  refine ⟨fun s n i m hd => ?hold, fun s m c hp hn hi hm hc => ⟨?_, ?_, ?_, ?_⟩⟩
  case hold =>
    obtain hp | hp | ⟨hp, hn, hi, hm, hd⟩ := hd
    · obtain ⟨-, -, -, hf⟩ := block_quiescent (.inl hp)
      exact hf
    · obtain ⟨-, -, -, hf⟩ := block_quiescent (.inr hp)
      exact hf
    · exact finish_hold hp hn hi hm hd
  all_goals exact fun ho => finish_eq hp hn hi hm ho hc

/-! ## What a BLOCK step leaves unchanged -/

/-- FINISH "never produces ERR" (R85). -/
theorem result_ok (o : Op) (m : FrameMode) (bs : List Byte) (c : Word16) : ∃ p, result o m bs c = .ok p := by
  cases o with
  | compute => exact ⟨_, rfl⟩
  | frame => exact ⟨_, rfl⟩
  | frameComplete => exact ⟨_, rfl⟩
  | verify => exact ⟨_, rfl⟩

theorem blockStep_resp {s t : State} (h : blockStep s = .next t) :
    t.resp = s.resp ∨ ∃ p, t.resp = some (.ok p) := by
  obtain h | h | h | rfl := blockStep_next h
  · obtain ⟨_, _, _, _, -, -, -, -, -, -, -, rfl⟩ | rfl := absorb_next h <;> exact .inl rfl
  · obtain ⟨_, _, -, -, -, rfl⟩ | rfl := shift_next h <;> exact .inl rfl
  · obtain ⟨m, o, c, -, -, -, -, -, -, rfl⟩ | rfl := finish_next h
    · obtain ⟨p, hp⟩ := result_ok o s.cfg.frameMode (Memory.bytes m) c
      exact .inr ⟨p, congrArg some hp⟩
    · exact .inl rfl
  · exact .inl rfl

/-- Settles O36: `blockStep_writes` names every field a BLOCK step writes. -/
theorem blockStepFrame : Obligations.BlockStepFrame := by
  intro s t h
  have hresp := blockStep_resp h
  obtain ⟨_, _, _, _, _, rfl⟩ := blockStep_writes h
  exact ⟨rfl, rfl, rfl, rfl, rfl, rfl, rfl, hresp⟩

end Sys2Proof.Machine
end

section
/-! What a command answers (40_command_protocol.md R85, R88): the response 9n + 1 BLOCK steps after its SUBMIT, and
BUSY in every state before it. -/

namespace Sys2Proof.Machine

/-! ## VERIFY's answer as a test of the checksum (43_verifier.md R151) -/

theorem toNat_lsb (c : Word16) : (lsb c).toNat = c.toNat % 256 := by
  have hmask : c.toNat &&& 255 = c.toNat % 256 := Nat.and_two_pow_sub_one_eq_mod c.toNat 8
  rw [lsb, BitVec.toNat_setWidth, BitVec.toNat_and, show (0xFF#16).toNat = 255 from rfl, hmask]
  omega

theorem toNat_msb (c : Word16) : (msb c).toNat = c.toNat / 256 := by
  have hmask : (c.toNat >>> 8) &&& 255 = (c.toNat >>> 8) % 256 := Nat.and_two_pow_sub_one_eq_mod _ 8
  have hlt := c.isLt
  rw [msb, BitVec.toNat_setWidth, BitVec.toNat_and, BitVec.toNat_ushiftRight, show (0xFF#16).toNat = 255 from rfl,
    hmask, Nat.shiftRight_eq_div_pow]
  omega

theorem lsb_msb_eq_zero_iff (c : Word16) : lsb c = 0#8 ∧ msb c = 0#8 ↔ c = 0#16 := by
  simp only [← BitVec.toNat_inj, toNat_lsb, toNat_msb, BitVec.toNat_ofNat]
  omega

/-- Up to 0xFF the low byte is the whole checksum (R130). -/
theorem lsb_eq_zero_iff {c : Word16} (hc : c.toNat ≤ 0xFF) : lsb c = 0#8 ↔ c = 0#16 := by
  simp only [← BitVec.toNat_inj, toNat_lsb, BitVec.toNat_ofNat]
  omega

theorem frameBytes_all_zero_iff (m : FrameMode) (c : Word16) :
    (frameBytes m c).all (fun b => decide (b = 0#8)) = true ↔ c = 0#16 := by
  cases m with
  | fixed2 => simp [frameBytes, frameBytesFixed2, lsb_msb_eq_zero_iff]
  | variableLen =>
    by_cases hc : 0xFF < c.toNat
    · simp [frameBytes, frameBytesVariable, hc, lsb_msb_eq_zero_iff]
    · simp [frameBytes, frameBytesVariable, hc, lsb_eq_zero_iff (Nat.not_lt.mp hc)]

theorem resultVerify_eq (m : FrameMode) (c : Word16) :
    resultVerify m c = .ok (.flag (decide (c = 0#16))) := by
  rw [resultVerify, Bool.eq_iff_iff.mpr ((frameBytes_all_zero_iff m c).trans decide_eq_true_iff.symm)]

/-! ## The response of each command -/

/-- Settles O13: `answered` with the response of COMPUTE. -/
theorem computeAnswersTheChecksum : Obligations.ComputeAnswersTheChecksum := by
  intro bs s hp ha
  exact ⟨_, exec_eq_accept rfl hp ha, rfl, runSteps_accept .compute bs s⟩

/-- Settles O14: `answered` with the response of FRAME. -/
theorem frameAnswersTheFrameBytes : Obligations.FrameAnswersTheFrameBytes := by
  intro bs s hp ha
  exact ⟨_, exec_eq_accept rfl hp ha, rfl, runSteps_accept .frame bs s⟩

/-- Settles O15: `answered` with the response of FRAME_COMPLETE. -/
theorem frameCompleteAnswersThePacket : Obligations.FrameCompleteAnswersThePacket := by
  intro bs s hp ha
  exact ⟨_, exec_eq_accept rfl hp ha, rfl, runSteps_accept .frameComplete bs s⟩

/-- Settles O16: `answered` with the response of VERIFY, which `resultVerify_eq` reads off the checksum. -/
theorem verifyAnswersWhetherTheChecksumIsZero : Obligations.VerifyAnswersWhetherTheChecksumIsZero := by
  intro bs s hp ha
  refine ⟨_, exec_eq_accept rfl hp ha, rfl, ?_⟩
  rw [← resultVerify_eq s.cfg.frameMode]
  exact runSteps_accept .verify bs s

/-! ## How long BUSY lasts -/

/-- The BLOCK steps before FINISH: the shifts left, and 9 for each element not yet absorbed (R88). -/
def stepsToFinish (bs : List Byte) (i n : Nat) : Nat := n + 9 * (bs.length - i)

theorem stepsToFinish_start (bs : List Byte) : stepsToFinish bs 0 0 = 9 * bs.length := by
  simp [stepsToFinish]

/-- A BLOCK step of a computation is one step nearer to FINISH, or it is FINISH. -/
theorem blockStep_computing {bs : List Byte} {i n : Nat} {c : Word16} (he : EngineInv bs i n c) (o : Op)
    (s : State) :
    (∃ i' n' c', EngineInv bs i' n' c' ∧ stepsToFinish bs i n = stepsToFinish bs i' n' + 1 ∧
      blockStep (computing o bs i n c s) = .next (computing o bs i' n' c' s)) ∨
    (stepsToFinish bs i n = 0 ∧ blockStep (computing o bs i n c s) = .next (answered o bs s)) := by
  cases n with
  | succ n =>
    exact .inl ⟨i, n, _, he.shift, by simp only [stepsToFinish]; omega, blockStep_computing_shift o bs i n c s⟩
  | zero =>
    have ⟨hle, _⟩ := he
    obtain hlt | rfl := Nat.lt_or_eq_of_le hle
    · have hb : bs[i]? = some bs[i] := List.getElem?_eq_getElem hlt
      exact .inl ⟨i + 1, 8, _, he.absorb hb, by simp only [stepsToFinish]; omega,
        blockStep_computing_absorb hb o c s⟩
    · cases he.crc_eq
      exact .inr ⟨by simp [stepsToFinish], blockStep_computing_finish o bs s⟩

/-- Up to FINISH every run of BLOCK steps ends in a computation still. -/
theorem runSteps_computing {bs : List Byte} {i n k : Nat} {c : Word16} (he : EngineInv bs i n c)
    (hk : k ≤ stepsToFinish bs i n) (o : Op) (s : State) :
    ∃ i' n' c', runSteps blockStep k (computing o bs i n c s) = .next (computing o bs i' n' c' s) := by
  induction k generalizing i n c with
  | zero => exact ⟨i, n, c, rfl⟩
  | succ k ih =>
    obtain ⟨i', n', c', he', hlen, hstep⟩ | ⟨hlen, -⟩ := blockStep_computing he o s
    · rw [runSteps_succ hstep]
      exact ih he' (by omega)
    · omega

/-- Settles O37: BUSY by `runSteps_computing`, and DONE by the run to the response. -/
theorem transactionTakesNinePerElementPlusOne : Obligations.TransactionTakesNinePerElementPlusOne := by
  intro i bs s hd hp ha
  refine ⟨_, exec_eq_accept hd hp ha, fun k hk => ?busy, _, runSteps_accept _ bs s, answered_phase ..⟩
  case busy =>
    rw [← stepsToFinish_start] at hk
    obtain ⟨_, _, _, hrun⟩ := runSteps_computing (engineInv_start bs) hk (opOf i) s
    exact ⟨_, hrun, computing_phase ..⟩

end Sys2Proof.Machine
end

section
/-! Whole transactions under the scheduler (40_command_protocol.md R80, R87 to R89): BUSY ends whatever it
chooses, and a SUBMIT followed by STATUS reads and a COLLECT returns its `spec`. -/

namespace Sys2Proof.Machine

/-! ## One step in BUSY -/

theorem blockReady_computing {bs : List Byte} {i : Nat} (hi : i ≤ bs.length) (o : Op) (n : Nat) (c : Word16)
    (s : State) : blockReady (computing o bs i n c s) = true := by
  cases n with
  | zero => simp [blockReady, computing, hi]
  | succ n => simp [blockReady, computing]

/-- A step of a computation is its BLOCK step, a STATUS read of 0x02, or a RESET, up to the scheduler's fields. -/
theorem step_computing {bs : List Byte} {i n : Nat} {c : Word16} (he : EngineInv bs i n c) (o : Op) (s : State) :
    ∃ sched draws,
      (∃ i' n' c', EngineInv bs i' n' c' ∧ stepsToFinish bs i n = stepsToFinish bs i' n' + 1 ∧
        step (computing o bs i n c s) =
          .next (computing o bs i' n' c' { s with schedule := sched, draws := draws })) ∨
      (stepsToFinish bs i n = 0 ∧
        step (computing o bs i n c s) = .next (answered o bs { s with schedule := sched, draws := draws })) ∨
      (∃ rest, s.script = .readStatus :: rest ∧
        step (computing o bs i n c s) = .next (computing o bs i n c { s with
          schedule := sched, draws := draws, script := rest, observed := s.observed ++ [.status 0x02#8] })) ∨
      (∃ rest, s.script = .reset :: rest ∧ ∃ t, step (computing o bs i n c s) = .next t ∧ t.phase = .idle) := by
  have ⟨hle, _⟩ := he
  obtain ⟨sched, draws, hstep⟩ := step_of_blockReady (blockReady_computing hle o n c s)
  refine ⟨sched, draws, ?_⟩
  obtain hstep | ⟨hready, hstep⟩ := hstep
  · rw [hstep]
    obtain hblock | hfinish := blockStep_computing he o { s with schedule := sched, draws := draws }
    · exact .inl hblock
    · exact .inr (.inl hfinish)
  · rw [hstep]
    obtain ⟨rest, hs⟩ | ⟨rest, hs⟩ := hostReady_busy (computing_phase ..) hready
    · exact .inr (.inr (.inl ⟨rest, hs, hostStep_readStatus hs (statusView_busy rfl)⟩))
    · exact .inr (.inr (.inr ⟨rest, hs, _, hostStep_reset hs, rfl⟩))

/-! ## BUSY ends -/

/-- Some run of at most `N` steps ends outside BUSY. -/
def LeavesBusyWithin (N : Nat) (s : State) : Prop :=
  ∃ k t, k ≤ N ∧ runSteps step k s = .next t ∧ t.phase ≠ .busy

theorem leavesBusyWithin_of_phase {s : State} (hp : s.phase ≠ .busy) (N : Nat) : LeavesBusyWithin N s :=
  ⟨0, s, N.zero_le, rfl, hp⟩

theorem LeavesBusyWithin.of_step {N : Nat} {s t : State} (h : LeavesBusyWithin N t) (hstep : step s = .next t) :
    LeavesBusyWithin (N + 1) s := by
  obtain ⟨k, u, hk, hrun, hp⟩ := h
  exact ⟨k + 1, u, Nat.succ_le_succ hk, (runSteps_succ hstep k).trans hrun, hp⟩

/-- Every step of a computation uses up a BLOCK step or an action of the host (R212). -/
theorem computing_leavesBusyWithin {bs : List Byte} {i n N : Nat} {c : Word16} {s : State}
    (he : EngineInv bs i n c) (hN : stepsToFinish bs i n + 1 + s.script.length ≤ N) (o : Op) :
    LeavesBusyWithin N (computing o bs i n c s) := by
  induction N generalizing i n c s with
  | zero => omega
  | succ N ih =>
    obtain ⟨sched, draws, ⟨i', n', c', he', hlen, hstep⟩ | ⟨-, hstep⟩ | ⟨rest, hs, hstep⟩ |
      ⟨rest, -, t, hstep, hp⟩⟩ := step_computing he o s
    · exact (ih he' (by dsimp only; omega)).of_step hstep
    · exact (leavesBusyWithin_of_phase (by simp) N).of_step hstep
    · rw [hs, List.length_cons] at hN
      exact (ih he (by dsimp only; omega)).of_step hstep
    · exact (leavesBusyWithin_of_phase (by simp [hp]) N).of_step hstep

/-- In BUSY a state of the invariant is a computation (R35). -/
theorem State.Inv.eq_computing {s : State} {m : Memory} {i n : Nat} (hs : s.Inv) (hp : s.phase = .busy)
    (hn : s.cnt = some n) (hi : s.idx = some i) (hm : s.buf = some m) :
    ∃ o c, EngineInv (Memory.bytes m) i n c ∧ s = computing o (Memory.bytes m) i n c s := by
  obtain ⟨o, _, _, _, c, ho, -, -, -, hc, -⟩ := hs.busy hp
  refine ⟨o, c, (hs.busy hp).engine hm hi hn hc, ?_⟩
  rw [computing, ← Memory.eq_ofBytes_of_wf (hs.bufCanonical m hm), ← ho, ← hm, ← hi, ← hn, ← hc, ← hp]

/-- Settles O41: the state is a computation, and each of its steps uses up part of the bound. -/
theorem busyAlwaysEnds : Obligations.BusyAlwaysEnds := by
  intro s n i m hs hp hn hi hm
  obtain ⟨o, c, he, heq⟩ := hs.eq_computing hp hn hi hm
  rw [Memory.size_eq_length_bytes]
  have hbound : LeavesBusyWithin _ (computing o (Memory.bytes m) i n c s) :=
    computing_leavesBusyWithin he le_rfl o
  rwa [← heq] at hbound

@[simp] theorem answered_observed (o : Op) (bs : List Byte) (s : State) :
    (answered o bs s).observed = s.observed := rfl

/-! ## STATUS reads while a command is computed, and after it -/

/-- What the host still does after the SUBMIT of a transaction: STATUS reads, and then its COLLECT. -/
def readsThenCollect (reads : Nat) (rest : List HostAction) : List HostAction :=
  List.replicate reads .readStatus ++ .collect :: rest

theorem readsThenCollect_zero (rest : List HostAction) : readsThenCollect 0 rest = .collect :: rest := rfl

theorem readsThenCollect_succ (reads : Nat) (rest : List HostAction) :
    readsThenCollect (reads + 1) rest = .readStatus :: readsThenCollect reads rest := rfl

theorem readsThenCollect_ne_reset (reads : Nat) (rest later : List HostAction) :
    readsThenCollect reads rest ≠ .reset :: later := by
  cases reads with
  | zero => simp [readsThenCollect_zero]
  | succ reads => simp [readsThenCollect_succ]

theorem exists_of_readsThenCollect_eq_readStatus {reads : Nat} {rest later : List HostAction}
    (h : readsThenCollect reads rest = .readStatus :: later) :
    ∃ r, reads = r + 1 ∧ later = readsThenCollect r rest := by
  cases reads with
  | zero => simp [readsThenCollect_zero] at h
  | succ r => exact ⟨r, rfl, by simpa [readsThenCollect_succ] using h.symm⟩

theorem runSteps_of_step {f : State → Result} {s t : State} {j k : Nat} {r : Result} (hstep : f s = .next t)
    (hrun : runSteps f j t = r) (hk : k = j + 1) : runSteps f k s = r := by
  rw [hk, runSteps_succ hstep, hrun]

/-- The reads that the scheduler takes in BUSY give 0x02, and the BLOCK reaches its response with the others and
the COLLECT still to come. -/
theorem runSteps_computing_reads {bs : List Byte} {i n N reads : Nat} {c : Word16} {s : State}
    {rest : List HostAction} (he : EngineInv bs i n c) (hN : stepsToFinish bs i n + reads < N)
    (hs : s.script = readsThenCollect reads rest) (o : Op) :
    ∃ early late u, early + late = reads ∧
      runSteps step (stepsToFinish bs i n + 1 + early) (computing o bs i n c s) = .next (answered o bs u) ∧
      u.observed = s.observed ++ List.replicate early (.status 0x02#8) ∧
      u.script = readsThenCollect late rest ∧ u.cfg = s.cfg := by
  induction N generalizing i n c s reads with
  | zero => omega
  | succ N ih =>
    obtain ⟨sched, draws, ⟨i', n', c', he', hlen, hstep⟩ | ⟨hlen, hstep⟩ | ⟨later, hread, hstep⟩ |
      ⟨later, hreset, -⟩⟩ := step_computing he o s
    · obtain ⟨early, late, u, hsum, hrun, hu⟩ :=
        ih (s := { s with schedule := sched, draws := draws }) he' (by omega) hs
      exact ⟨early, late, u, hsum, runSteps_of_step hstep hrun (by omega), hu⟩
    · exact ⟨0, reads, _, Nat.zero_add _, runSteps_of_step hstep (runSteps_zero ..) (by omega),
        (List.append_nil _).symm, hs, rfl⟩
    · obtain ⟨r, rfl, rfl⟩ := exists_of_readsThenCollect_eq_readStatus (hs.symm.trans hread)
      obtain ⟨early, late, u, hsum, hrun, hobs, hu⟩ := ih (s := { s with
        schedule := sched, draws := draws, script := readsThenCollect r rest,
        observed := s.observed ++ [.status 0x02#8] }) he (by omega) rfl
      refine ⟨early + 1, late, u, by omega, runSteps_of_step hstep hrun (by omega), ?_, hu⟩
      rw [hobs, List.replicate_succ, List.append_assoc, List.singleton_append]
    · exact absurd (hs.symm.trans hreset) (readsThenCollect_ne_reset _ _ _)

/-- In DONE the reads give the STATUS value of the response, which the COLLECT then returns. -/
theorem runSteps_reads_collect {s : State} {reads : Nat} {rest : List HostAction} {r : Response} {b : Byte}
    (hp : s.phase = .done) (hr : s.resp = some r) (hv : statusView s = .ok b)
    (hs : s.script = readsThenCollect reads rest) :
    runSteps step (reads + 1) s = .next { s with
      script := rest, observed := s.observed ++ List.replicate reads (.status b) ++ [.response r],
      resp := none, phase := .idle } := by
  induction reads generalizing s with
  | zero =>
    rw [runSteps_succ (step_collect hs hp hr), runSteps_zero, List.replicate_zero, List.append_nil]
  | succ reads ih =>
    rw [readsThenCollect_succ] at hs
    have hstep := (step_readStatus hs (by simp [hp])).trans (hostStep_readStatus hs hv)
    rw [runSteps_succ hstep, ih (s := { s with
      script := readsThenCollect reads rest, observed := s.observed ++ [.status b] }) hp hr hv rfl]
    simp only [List.replicate_succ, List.append_assoc, List.cons_append, List.nil_append]

/-! ## The transaction -/

/-- An invalid DATA is answered at once: every read gives 0x0C and the COLLECT the error (R82, R89). -/
theorem rejected_transaction {s : State} {c : Command} {reads : Nat} {rest : List HostAction}
    (hp : s.phase = .idle) (hs : s.script = .submit c :: readsThenCollect reads rest)
    (ha : admits s.cfg c.data.length = true) (hd : decodeData c.data = none) :
    ∃ t, runSteps step (2 + reads) s = .next t ∧
      t.observed = s.observed ++ List.replicate reads (.status 0x0C#8) ++ [.response (.err .invalidByteValue)] ∧
      t.phase = .idle ∧ t.resp = none ∧ t.script = rest ∧ t.cfg = s.cfg := by
  have hstep := (step_submit hs hp ha).trans
    (exec_eq_reject hp (by rwa [decode_data]) (by rwa [decode_data]))
  exact ⟨_, runSteps_of_step hstep (runSteps_reads_collect rfl rfl (statusView_done_err rfl rfl) rfl) (by omega),
    rfl, rfl, rfl, rfl, rfl⟩

/-- A DATA of bytes is answered in 9n + 1 BLOCK steps: the reads give 0x02 and, from FINISH on, 0x04 (R88, R90). -/
theorem accepted_transaction {s : State} {c : Command} {bs : List Byte} {reads : Nat} {rest : List HostAction}
    (hp : s.phase = .idle) (hs : s.script = .submit c :: readsThenCollect reads rest)
    (ha : admits s.cfg c.data.length = true) (hd : c.data = asElements bs) :
    ∃ early late t, early + late = reads ∧ runSteps step (9 * bs.length + 3 + reads) s = .next t ∧
      t.observed = s.observed ++ List.replicate early (.status 0x02#8) ++ List.replicate late (.status 0x04#8) ++
        [.response (result (opOf (decode c)) s.cfg.frameMode bs (crc16 bs))] ∧
      t.phase = .idle ∧ t.resp = none ∧ t.script = rest ∧ t.cfg = s.cfg := by
  have hstep := (step_submit hs hp ha).trans
    (exec_eq_accept ((decode_data c).trans hd) hp (by rwa [hd, asElements_length] at ha))
  obtain ⟨early, late, u, hsum, hrun, hobs, hscript, hcfg⟩ :=
    runSteps_computing_reads (s := { s with script := readsThenCollect reads rest }) (engineInv_start bs)
      (Nat.lt_succ_self _) rfl (opOf (decode c))
  obtain ⟨p, hok⟩ := result_ok (opOf (decode c)) u.cfg.frameMode bs (crc16 bs)
  have hcollect := runSteps_reads_collect (s := answered (opOf (decode c)) bs u) rfl rfl
    (statusView_done_ok rfl (congrArg some hok)) hscript
  refine ⟨early, late, _, hsum, runSteps_of_step hstep ((runSteps_add hrun _).trans hcollect) ?count, ?observed,
    rfl, rfl, rfl, hcfg⟩
  case count =>
    rw [stepsToFinish_start]
    omega
  case observed => rw [answered_observed, hobs, hcfg]

/-- Settles O42: by whether DATA can be captured, which is what `spec` and SUBMIT both ask. -/
theorem transactionReturnsItsSpec : Obligations.TransactionReturnsItsSpec := by
  intro s c reads rest hp hs ha
  cases hd : decodeData c.data with
  | none =>
    obtain ⟨t, ht⟩ := rejected_transaction hp hs ha hd
    rw [spec, hd, decodeData_eq_none_iff.mp hd]
    refine ⟨0, reads, t, Nat.zero_add _, fun _ => rfl, ?_⟩
    simpa using ht
  | some bs =>
    obtain ⟨hvalid, -⟩ := decodeData_some hd
    obtain ⟨early, late, t, hsum, ht⟩ := accepted_transaction hp hs ha (decodeData_eq_some_iff.mp hd)
    rw [spec, hd, List.all_eq_true.mpr hvalid, decodeData_eq_some_iff.mp hd, asElements_length]
    exact ⟨early, late, t, hsum, nofun, ht⟩

end Sys2Proof.Machine
end

section
/-! The laws of the checksum (41_checksum_engine.md R104, R107, R108): one shift is linear and is 0 only at 0. The
byte update is linear in the register and the byte together, so a table can replace its 8 shifts. -/

namespace Sys2Proof.Machine

/-! ## One shift -/

theorem carry_ne_zero_iff (c : Word16) : carry c ≠ 0#16 ↔ c.getLsbD 0 = true := by
  have hmask : (carry c).toNat = c.toNat % 2 := Nat.and_one_is_mod _
  rw [ne_eq, ← BitVec.toNat_inj, hmask, BitVec.getLsbD, Nat.testBit_zero, decide_eq_true_eq]
  exact Nat.mod_two_ne_zero

/-- R103, by the bit that is shifted out. -/
theorem shift1_eq_ite (c : Word16) :
    shift1 c = if c.getLsbD 0 then (c >>> 1) ^^^ crcPoly else c >>> 1 :=
  if_congr (carry_ne_zero_iff c) rfl rfl

theorem shift1_of_even {c : Word16} (h : c.getLsbD 0 = false) : shift1 c = c >>> 1 := by
  rw [shift1_eq_ite, h, if_neg Bool.false_ne_true]

theorem shift1_of_odd {c : Word16} (h : c.getLsbD 0 = true) : shift1 c = (c >>> 1) ^^^ crcPoly := by
  rw [shift1_eq_ite, if_pos h]

/-- The logical shift leaves bit 15 clear, and POLY sets it (R103). -/
theorem shift1_getLsbD_15_of_odd {c : Word16} (h : c.getLsbD 0 = true) : (shift1 c).getLsbD 15 = true := by
  have hpoly : crcPoly.getLsbD 15 = true := by decide
  simp [shift1_of_odd h, hpoly]

/-- R107 (c): POLY goes in where exactly one of the two registers is odd, and cancels where both are. -/
theorem shift1_xor (x y : Word16) : shift1 (x ^^^ y) = shift1 x ^^^ shift1 y := by
  have hbit : (x ^^^ y).getLsbD 0 = (x.getLsbD 0 ^^ y.getLsbD 0) := BitVec.getLsbD_xor
  cases hx : x.getLsbD 0 <;> cases hy : y.getLsbD 0 <;> rw [hx, hy] at hbit
  case false.false =>
    rw [shift1_of_even hbit, shift1_of_even hx, shift1_of_even hy, BitVec.ushiftRight_xor_distrib]
  case false.true =>
    rw [shift1_of_odd hbit, shift1_of_even hx, shift1_of_odd hy, BitVec.ushiftRight_xor_distrib, BitVec.xor_assoc]
  case true.false =>
    rw [shift1_of_odd hbit, shift1_of_odd hx, shift1_of_even hy, BitVec.ushiftRight_xor_distrib]
    ac_rfl
  case true.true =>
    have hcancel : (x >>> 1 ^^^ crcPoly) ^^^ (y >>> 1 ^^^ crcPoly) =
        (x >>> 1 ^^^ y >>> 1) ^^^ (crcPoly ^^^ crcPoly) := by ac_rfl
    rw [shift1_of_even hbit, shift1_of_odd hx, shift1_of_odd hy, BitVec.ushiftRight_xor_distrib, hcancel,
      BitVec.xor_self, BitVec.xor_zero]

theorem shift1_zero : shift1 0#16 = 0#16 := by decide

/-- R107 (d): an even register is only halved, and an odd one has bit 15 set after the shift. -/
theorem shift1_eq_zero_iff (x : Word16) : shift1 x = 0#16 ↔ x = 0#16 := by
  constructor
  · intro h
    cases hx : x.getLsbD 0 with
    | false =>
      have hhalf : (x >>> 1).toNat = 0 := by rw [← shift1_of_even hx, h]; rfl
      have heven : x.toNat % 2 = 0 := by simpa [BitVec.getLsbD] using hx
      rw [BitVec.toNat_ushiftRight, Nat.shiftRight_eq_div_pow] at hhalf
      exact BitVec.eq_of_toNat_eq (show x.toNat = 0 by omega)
    | true =>
      have hbit := shift1_getLsbD_15_of_odd hx
      rw [h] at hbit
      exact absurd hbit (by decide)
  · rintro rfl
    exact shift1_zero

/-! ## Repeated shifts and the byte update -/

theorem shiftN_xor (n : Nat) (x y : Word16) : shiftN n (x ^^^ y) = shiftN n x ^^^ shiftN n y := by
  induction n with
  | zero => rfl
  | succ n ih => rw [shiftN_succ, shiftN_succ, shiftN_succ, ih, shift1_xor]

/-- Shifts that move only zeros out never XOR POLY in. -/
theorem shiftN_eq_ushiftRight {n : Nat} {c : Word16} (h : ∀ i < n, c.getLsbD i = false) : shiftN n c = c >>> n := by
  induction n with
  | zero => simp
  | succ n ih =>
    have heven : (c >>> n).getLsbD 0 = false := by simpa using h n n.lt_succ_self
    rw [shiftN_succ, ih fun i hi => h i (Nat.lt_succ_of_lt hi), shift1_of_even heven, BitVec.shiftRight_add]

/-- The byte meets bits 7..0 of the register; above them it has no bit (R102). -/
theorem getLsbD_absorbByte (c : Word16) (b : Byte) {i : Nat} (hi : i < 16) :
    (absorbByte c b).getLsbD i = (c.getLsbD i ^^ b.getLsbD i) := by
  rw [absorbByte, zext16, BitVec.getLsbD_xor, BitVec.getLsbD_setWidth, decide_eq_true hi, Bool.true_and]

theorem absorbByte_xor (x y : Word16) (a b : Byte) :
    absorbByte (x ^^^ y) (a ^^^ b) = absorbByte x a ^^^ absorbByte y b := by
  simp only [absorbByte, zext16, BitVec.setWidth_xor]
  ac_rfl

/-- R107 (c). -/
theorem updateByte_xor (x y : Word16) (a b : Byte) :
    updateByte (x ^^^ y) (a ^^^ b) = updateByte x a ^^^ updateByte y b := by
  rw [updateByte, absorbByte_xor, shiftN_xor, updateByte, updateByte]

theorem crc16_append (xs ys : List Byte) : crc16 (xs ++ ys) = ys.foldl updateByte (crc16 xs) :=
  List.foldl_append

/-- Settles O45: the fold's own laws, linearity and the kernel of one shift, and the width of the register. -/
theorem checksumLaws : Obligations.ChecksumLaws :=
  ⟨rfl, crc16_append, shift1_xor, shift1_zero, updateByte_xor, shift1_eq_zero_iff, fun bs => (crc16 bs).isLt⟩

/-! ## The table -/

/-- A register is its high byte, in place, and its low byte; only the low byte meets the element (R102). -/
theorem absorbByte_eq_high_xor (c : Word16) (b : Byte) :
    absorbByte c b = (c >>> 8 <<< 8) ^^^ absorbByte 0#16 (c.extractLsb' 0 8 ^^^ b) := by
  apply BitVec.eq_of_getLsbD_eq
  intro i hi
  rw [BitVec.getLsbD_xor, getLsbD_absorbByte c b hi, getLsbD_absorbByte _ _ hi]
  by_cases hlow : i < 8
  · simp [hlow]
  · have hhigh : 8 + (i - 8) = i := by omega
    simp [hi, hlow, hhigh]

theorem shiftN_high_byte (c : Word16) : shiftN 8 (c >>> 8 <<< 8) = c >>> 8 := by
  have hlow : ∀ i < 8, (c >>> 8 <<< 8).getLsbD i = false := fun i hi => by simp [hi]
  have hlt := c.isLt
  rw [shiftN_eq_ushiftRight hlow]
  apply BitVec.eq_of_toNat_eq
  simp only [BitVec.toNat_ushiftRight, BitVec.toNat_shiftLeft, Nat.shiftRight_eq_div_pow, Nat.shiftLeft_eq]
  omega

/-- Settles O46: the 8 shifts move the high byte down unchanged, and what the low byte and the element give is the
table's entry. -/
theorem tableDrivenUpdateAgrees : Obligations.TableDrivenUpdateAgrees := by
  intro c b
  rw [updateByte, absorbByte_eq_high_xor, shiftN_xor, shiftN_high_byte, updateByte]

end Sys2Proof.Machine
end

section
/-! The engine's two steps (41_checksum_engine.md R102, R103): what ABSORB and SHIFT write where they are enabled. -/

namespace Sys2Proof.Machine

/-! ## ABSORB -/

theorem absorb_eq {s : State} {i : Nat} {m : Memory} {c : Word16} {b : Byte} (hp : s.phase = .busy)
    (hn : s.cnt = some 0) (hi : s.idx = some i) (hm : s.buf = some m) (hc : s.crc = some c)
    (hlt : i < Memory.size m) (hb : Memory.read m i = some b) :
    absorb s = .next { s with crc := some (absorbByte c b), idx := some (i + 1), cnt := some 8 } := by
  rw [← blockStep_eq_absorb hp hn hi hm hlt, blockStep_absorb hp hn hi hm hc hlt hb]

theorem absorbByte_low (c : Word16) (b : Byte) :
    (absorbByte c b).extractLsb' 0 8 = c.extractLsb' 0 8 ^^^ b := by
  apply BitVec.eq_of_getLsbD_eq
  intro i hi
  simp [hi, getLsbD_absorbByte c b (Nat.lt_add_right 8 hi)]

theorem absorbByte_high (c : Word16) (b : Byte) : (absorbByte c b).extractLsb' 8 8 = c.extractLsb' 8 8 := by
  apply BitVec.eq_of_getLsbD_eq
  intro i hi
  simp [hi, getLsbD_absorbByte c b (Nat.add_lt_add_left hi 8)]

/-- Settles O33: the element ABSORB reads is the one of the byte sequence, and `absorbByte` reaches bits 7..0 only. -/
theorem absorbXorsTheNextElement : Obligations.AbsorbXorsTheNextElement := by
  refine ⟨fun s i m c b hp hn hi hm hc hw hb => ?enabled, fun s hp => ?quiescent,
    fun s n i m hp hn hi hm hd => absorb_hold hp hn hi hm hd⟩
  case enabled =>
    obtain ⟨hlt, -⟩ := List.getElem?_eq_some_iff.mp hb
    rw [← Memory.size_eq_length_bytes] at hlt
    rw [← Memory.read_of_wf hw] at hb
    refine ⟨_, absorb_eq hp hn hi hm hc hlt hb, absorbByte_low c b, absorbByte_high c b, ?_, ?_⟩
    · rintro rfl
      exact BitVec.xor_zero
    · rintro rfl
      rfl
  case quiescent =>
    obtain ⟨-, ha, -, -⟩ := block_quiescent hp
    exact ha

/-! ## SHIFT -/

theorem shift_eq {s : State} {n : Nat} {c : Word16} (hp : s.phase = .busy) (hn : s.cnt = some (n + 1))
    (hc : s.crc = some c) : shift s = .next { s with crc := some (shift1 c), cnt := some n } := by
  rw [← blockStep_eq_shift hp hn, blockStep_shift hp hn hc]

/-- Settles O34: SHIFT applies `shift1`, whose carry is the bit shifted out. -/
theorem shiftDividesByOneBit : Obligations.ShiftDividesByOneBit := by
  refine ⟨fun s n c hp hn hc => ?enabled, fun s hd => ?hold, fun c hodd => shift1_getLsbD_15_of_odd hodd,
    shift1_zero, by decide, by decide, by decide⟩
  case enabled => rw [shift_eq hp hn hc, shift1_eq_ite, crcPoly]
  case hold =>
    obtain hp | hp | ⟨hp, hn⟩ := hd
    · obtain ⟨-, -, hs, -⟩ := block_quiescent (.inl hp)
      exact hs
    · obtain ⟨-, -, hs, -⟩ := block_quiescent (.inr hp)
      exact hs
    · exact shift_hold hp hn

end Sys2Proof.Machine
end

section
/-! The source's own examples (R106, R132, R133, R150, R171), as values of the reference function (R89). -/

namespace Sys2Proof.Machine

/-- On byte values the reference function is the result of the operation on their checksum (R89). -/
theorem spec_asElements (m : FrameMode) (o : Op) (bs : List Byte) :
    spec m o (asElements bs) = result o m bs (crc16 bs) := by
  rw [spec, decodeData_asElements]

theorem spec_of_invalid (m : FrameMode) (o : Op) {data : List Int} (h : data.all validElement = false) :
    spec m o data = .err .invalidByteValue := by
  rw [spec, decodeData_eq_none_iff.mpr h]

/-- R106's example. -/
theorem crc16_FF_FE : crc16 [0xFF#8, 0xFE#8] = 0xC0C1#16 := by decide

/-- R150's example: the same bytes, then their frame bytes. -/
theorem crc16_FF_FE_C1_C0 : crc16 [0xFF#8, 0xFE#8, 0xC1#8, 0xC0#8] = 0x0000#16 :=
  calc crc16 ([0xFF#8, 0xFE#8] ++ [0xC1#8, 0xC0#8])
    _ = [0xC1#8, 0xC0#8].foldl updateByte (crc16 [0xFF#8, 0xFE#8]) := crc16_append _ _
    _ = 0x0000#16 := by rw [crc16_FF_FE]; decide

/-- Settles O56: each response is formed from the checksum of the example's bytes. -/
theorem sourceExamplesHold : Obligations.SourceExamplesHold := by
  have hdata : ([0xFF, 0xFE] : List Int) = asElements [0xFF#8, 0xFE#8] := by decide
  have hpacket : ([0xFF, 0xFE, 0xC1, 0xC0] : List Int) = asElements [0xFF#8, 0xFE#8, 0xC1#8, 0xC0#8] := by decide
  have hempty : ([] : List Int) = asElements [] := rfl
  refine ⟨?_, ?_, spec_of_invalid _ _ (by decide), spec_of_invalid _ _ (by decide), ?_, ?_, ?_, ?_⟩
  · rw [hdata, spec_asElements, crc16_FF_FE]
    rfl
  · rw [hempty, spec_asElements]
    rfl
  · rw [hdata, spec_asElements, crc16_FF_FE]
    decide
  · rw [hdata, spec_asElements, crc16_FF_FE]
    decide
  · rw [hpacket, spec_asElements, crc16_FF_FE_C1_C0]
    decide
  · rw [hempty, spec_asElements]
    decide

end Sys2Proof.Machine
end

section
/-! The frame bytes (42_framer.md R130, R131, R134): their values and their number, in both modes. -/

namespace Sys2Proof.Machine

/-! ## The two halves of the checksum -/

theorem lsb_eq_extractLsb' (c : Word16) : lsb c = c.extractLsb' 0 8 := by
  apply BitVec.eq_of_toNat_eq
  rw [toNat_lsb, BitVec.extractLsb'_toNat, Nat.shiftRight_zero]

theorem msb_eq_extractLsb' (c : Word16) : msb c = c.extractLsb' 8 8 := by
  have hlt := c.isLt
  apply BitVec.eq_of_toNat_eq
  rw [toNat_msb, BitVec.extractLsb'_toNat, Nat.shiftRight_eq_div_pow]
  omega

theorem msb_eq_lsb_ushiftRight (c : Word16) : msb c = lsb (c >>> 8) := rfl

/-- R134: the threshold of VARIABLE is a test of the high byte. -/
theorem msb_eq_zero_iff (c : Word16) : msb c = 0#8 ↔ c.toNat ≤ 0xFF := by
  rw [← BitVec.toNat_inj, toNat_msb, BitVec.toNat_ofNat]
  omega

/-! ## The frame bytes of each mode -/

theorem frameBytes_fixed2 (c : Word16) : frameBytes .fixed2 c = [lsb c, msb c] := rfl

theorem frameBytes_variableLen_of_gt {c : Word16} (h : 0xFF < c.toNat) :
    frameBytes .variableLen c = [lsb c, msb c] := if_pos h

theorem frameBytes_variableLen_of_le {c : Word16} (h : c.toNat ≤ 0xFF) :
    frameBytes .variableLen c = [lsb c] := if_neg (Nat.not_lt.mpr h)

/-- Settles O47: up to the threshold the high byte is zero, so the low byte is the whole checksum. -/
theorem frameBytesAreLowThenHigh : Obligations.FrameBytesAreLowThenHigh := by
  intro c
  rw [← lsb_eq_extractLsb', ← msb_eq_extractLsb']
  refine ⟨frameBytes_fixed2 c, frameBytes_variableLen_of_gt, fun h => ⟨frameBytes_variableLen_of_le h, ?low, ?high⟩⟩
  case low => rw [toNat_lsb, Nat.mod_eq_of_lt (Nat.lt_succ_of_le h)]
  case high => rw [frameBytes_fixed2, (msb_eq_zero_iff c).mpr h]

/-- Settles O48: the lengths of the lists of R130 and R131, and the threshold as a test of the high byte. -/
theorem frameBytesLength : Obligations.FrameBytesLength := by
  intro c
  rw [← msb_eq_extractLsb']
  refine ⟨fun h => ?long, fun h => ?short, rfl, (msb_eq_zero_iff c).symm⟩
  case long => rw [frameBytes_variableLen_of_gt h]; rfl
  case short => rw [frameBytes_variableLen_of_le h]; rfl

end Sys2Proof.Machine
end

section
/-! Framed packets (42_framer.md R135, R136): the checksum over a packet, and which mode's packets determine their
payload. -/

namespace Sys2Proof.Machine

/-! ## The round trip to zero -/

theorem updateByte_zero : updateByte 0#16 0#8 = 0#16 := by decide

/-- Its own low byte cancels the low half of the register, and the 8 shifts move the high half down. -/
theorem updateByte_lsb (c : Word16) : updateByte c (lsb c) = c >>> 8 := by
  rw [tableDrivenUpdateAgrees, ← lsb_eq_extractLsb', BitVec.xor_self, updateByte_zero, BitVec.xor_zero]

theorem updateByte_lsb_of_le {c : Word16} (h : c.toNat ≤ 0xFF) : updateByte c (lsb c) = 0#16 := by
  rw [updateByte_lsb]
  apply BitVec.eq_of_toNat_eq
  rw [BitVec.toNat_ushiftRight, Nat.shiftRight_eq_div_pow]
  exact Nat.div_eq_of_lt (Nat.lt_succ_of_le h)

theorem updateByte_lsb_msb (c : Word16) : updateByte (updateByte c (lsb c)) (msb c) = 0#16 := by
  rw [updateByte_lsb, msb_eq_lsb_ushiftRight, updateByte_lsb, ← BitVec.shiftRight_add,
    BitVec.ushiftRight_eq_zero (Nat.le_refl 16)]

/-- The frame bytes of a register clear it: both halves in turn, or the low half where the high one is zero. -/
theorem foldl_updateByte_frameBytes (m : FrameMode) (c : Word16) :
    (frameBytes m c).foldl updateByte c = 0#16 := by
  cases m with
  | fixed2 => exact updateByte_lsb_msb c
  | variableLen =>
    obtain h | h := Nat.lt_or_ge 0xFF c.toNat
    · rw [frameBytes_variableLen_of_gt h]
      exact updateByte_lsb_msb c
    · rw [frameBytes_variableLen_of_le h]
      exact updateByte_lsb_of_le h

/-- Settles O49: after the payload the register is its checksum, which its own frame bytes clear. -/
theorem framedPacketHasChecksumZero : Obligations.FramedPacketHasChecksumZero := by
  intro m p
  rw [crc16_append, foldl_updateByte_frameBytes]

/-! ## Which packets determine their payload -/

theorem take_append_frameBytes_fixed2 (p : List Byte) (c : Word16) :
    (p ++ frameBytes .fixed2 c).take ((p ++ frameBytes .fixed2 c).length - 2) = p := by
  have hlen : (p ++ frameBytes .fixed2 c).length - 2 = p.length := by simp [frameBytes_fixed2]
  rw [hlen, List.take_left]

/-- The element 0xFF cancels the low byte of 0xFFFF, so the checksum of `[0xFF]` is at the threshold of VARIABLE. -/
theorem crc16_FF : crc16 [0xFF#8] = 0x00FF#16 := by decide

/-- Settles O50: the two frame bytes of 0xFFFF, the checksum of `[]`, are `[0xFF]` followed by the one frame byte of
its checksum. -/
theorem packetsDeterminePayloadsOnlyInFixed2 : Obligations.PacketsDeterminePayloadsOnlyInFixed2 := by
  have hempty : ([] : List Int) = asElements [] := rfl
  have hFF : ([255] : List Int) = asElements [0xFF#8] := rfl
  refine ⟨?_, ?_, fun p => ⟨_, spec_asElements .fixed2 .frameComplete p, take_append_frameBytes_fixed2 p _⟩⟩
  · rw [hempty, spec_asElements, show crc16 [] = 0xFFFF#16 from rfl]
    rfl
  · rw [hFF, spec_asElements, crc16_FF]
    rfl

end Sys2Proof.Machine
end

section
/-! The Verifier (43_verifier.md R151 to R155): which packets VERIFY accepts. The checksum separates two packets that
differ in one byte alone, so no error within one byte of a framed packet passes. -/

namespace Sys2Proof.Machine

/-! ## VERIFY as a test of the checksum -/

/-- Settles O51: FINISH's test that every frame byte is zero is the test that the checksum is (`resultVerify_eq`). -/
theorem verifyIsChecksumZero : Obligations.VerifyIsChecksumZero := by
  intro m bs
  rw [spec_asElements, result, resultVerify_eq]

/-- Settles O52: the machine's run of VERIFY on any bytes, on a packet whose checksum is zero. -/
theorem verifyAcceptsEveryFramedPacket : Obligations.VerifyAcceptsEveryFramedPacket := by
  intro p s hp ha
  obtain ⟨t, hexec, -, hrun⟩ := verifyAnswersWhetherTheChecksumIsZero _ s hp ha
  rw [framedPacketHasChecksumZero, decide_eq_true rfl] at hrun
  exact ⟨t, _, hexec, hrun, rfl, rfl⟩

/-! ## The byte update is injective in the register and in the byte -/

/-- The difference of two registers with one image shifts to 0, so it is 0 (R107 (c), (d)). -/
theorem shift1_injective : Function.Injective shift1 := by
  intro x y h
  have hdiff : shift1 (x ^^^ y) = 0#16 := by rw [shift1_xor, h, BitVec.xor_self]
  exact BitVec.xor_eq_zero_iff.mp ((shift1_eq_zero_iff _).mp hdiff)

theorem shiftN_injective (n : Nat) : Function.Injective (shiftN n) := by
  induction n with
  | zero => exact fun _ _ h => h
  | succ n ih => exact ih.comp shift1_injective

theorem setWidth_zext16 : Function.LeftInverse (BitVec.setWidth 8) zext16 := by
  intro b
  rw [zext16, BitVec.setWidth_setWidth_of_le _ (by decide), BitVec.setWidth_eq]

theorem updateByte_register_injective (b : Byte) : Function.Injective fun c => updateByte c b :=
  fun _ _ h => (BitVec.xor_left_inj _).mp (shiftN_injective 8 h)

theorem updateByte_byte_injective (c : Word16) : Function.Injective (updateByte c) :=
  fun _ _ h => setWidth_zext16.injective ((BitVec.xor_right_inj c).mp (shiftN_injective 8 h))

theorem foldl_updateByte_injective (bs : List Byte) : Function.Injective fun c => bs.foldl updateByte c := by
  induction bs with
  | nil => exact fun _ _ h => h
  | cons b bs ih => exact ih.comp (updateByte_register_injective b)

/-! ## Errors within one byte -/

/-- The registers agree before the byte, differ after it, and stay different to the end. -/
theorem crc16_append_cons_inj {xs ys : List Byte} {a b : Byte} :
    crc16 (xs ++ a :: ys) = crc16 (xs ++ b :: ys) ↔ a = b := by
  refine ⟨fun h => ?_, fun h => h ▸ rfl⟩
  rw [crc16_append, crc16_append] at h
  exact updateByte_byte_injective _ (foldl_updateByte_injective ys h)

/-- A byte that is replaced by another one changes the checksum. -/
theorem crc16_set_ne {bs : List Byte} {i : Nat} {a b : Byte} (hb : bs[i]? = some b) (hne : a ≠ b) :
    crc16 (bs.set i a) ≠ crc16 bs := by
  obtain ⟨hi, rfl⟩ := List.getElem?_eq_some_iff.mp hb
  obtain ⟨xs, ys, hbs, -, hset⟩ := List.exists_of_set (a' := a) hi
  intro h
  rw [hset] at h
  exact hne (crc16_append_cons_inj.mp (h.trans (congrArg crc16 hbs)))

theorem xor_twoPow_ne (b : Byte) (k : Fin 8) : b ^^^ BitVec.twoPow 8 k ≠ b := by
  intro h
  have hbit : (b ^^^ BitVec.twoPow 8 k).getLsbD k = b.getLsbD k := by rw [h]
  simp at hbit

theorem FlipsOneBit.crc16_ne {p q : List Byte} (h : FlipsOneBit p q) : crc16 q ≠ crc16 p := by
  obtain ⟨i, b, k, hb, rfl⟩ := h
  exact crc16_set_ne hb (xor_twoPow_ne b k)

/-- Settles O54: the framed packet's checksum is 0, so that of the packet with the flipped bit is not. -/
theorem singleBitFlipIsDetected : Obligations.SingleBitFlipIsDetected := by
  intro m p q hflip
  have hne : crc16 q ≠ 0#16 := framedPacketHasChecksumZero m p ▸ hflip.crc16_ne
  rw [verifyIsChecksumZero, decide_eq_false hne]

/-! ## An error that passes -/

theorem crc16_FF_FD : crc16 [0xFF#8, 0xFD#8] = 0xC181#16 := by decide

/-- The spec's 4-bit error turns one framed packet into another: `[0xFF, 0xFD]` followed by its frame bytes. -/
theorem crc16_FF_FD_81_C1 : crc16 [0xFF#8, 0xFD#8, 0x81#8, 0xC1#8] = 0x0000#16 := by
  have hpacket : [0xFF#8, 0xFD#8, 0x81#8, 0xC1#8] = [0xFF#8, 0xFD#8] ++ frameBytes .variableLen 0xC181#16 := by decide
  rw [hpacket, ← crc16_FF_FD, framedPacketHasChecksumZero]

/-- Settles O55: both packets have the checksum 0. -/
theorem oneFourBitErrorPasses : Obligations.OneFourBitErrorPasses := by
  have hflipped : ([0xFF, 0xFD, 0x81, 0xC1] : List Int) = asElements [0xFF#8, 0xFD#8, 0x81#8, 0xC1#8] := by decide
  have hpacket : ([0xFF, 0xFE, 0xC1, 0xC0] : List Int) = asElements [0xFF#8, 0xFE#8, 0xC1#8, 0xC0#8] := by decide
  refine ⟨by decide, ?_, ?_⟩
  · rw [hflipped, verifyIsChecksumZero, decide_eq_true crc16_FF_FD_81_C1]
  · rw [hpacket, verifyIsChecksumZero, decide_eq_true crc16_FF_FE_C1_C0]

end Sys2Proof.Machine
end

section
/-! The two frame modes side by side (70_reset_and_hazards.md R210): which responses depend on the mode. -/

namespace Sys2Proof.Machine

/-- Where an operation's result is the same in two modes, so is its response, since invalid DATA is answered by the
error in every mode. -/
theorem spec_congr_mode {m m' : FrameMode} {o : Op} (h : ∀ bs c, result o m bs c = result o m' bs c)
    (data : List Int) : spec m o data = spec m' o data := by
  cases hd : decodeData data with
  | none => simp only [spec, hd]
  | some bs => simp only [spec, hd, h]

theorem spec_verify_mode (m m' : FrameMode) (data : List Int) : spec m .verify data = spec m' .verify data :=
  spec_congr_mode (o := .verify) (fun _ c => (resultVerify_eq m c).trans (resultVerify_eq m' c).symm) data

theorem spec_compute_mode (m m' : FrameMode) (data : List Int) : spec m .compute data = spec m' .compute data :=
  spec_congr_mode (o := .compute) (fun _ _ => rfl) data

/-- Up to the threshold FIXED2 has one frame byte more than VARIABLE (R130, R131). -/
theorem frameBytes_modes_ne {c : Word16} (h : c.toNat ≤ 0xFF) : frameBytes .variableLen c ≠ frameBytes .fixed2 c := by
  rw [frameBytes_variableLen_of_le h, frameBytes_fixed2]
  simp

theorem spec_frame_modes_ne {bs : List Byte} (h : (crc16 bs).toNat ≤ 0xFF) :
    spec .variableLen .frame (asElements bs) ≠ spec .fixed2 .frame (asElements bs) := by
  simpa [spec_asElements, result, resultFrame] using frameBytes_modes_ne h

theorem spec_frameComplete_modes_ne {bs : List Byte} (h : (crc16 bs).toNat ≤ 0xFF) :
    spec .variableLen .frameComplete (asElements bs) ≠ spec .fixed2 .frameComplete (asElements bs) := by
  simpa [spec_asElements, result, resultFrameComplete] using frameBytes_modes_ne h

/-- Settles O53: a packet framed in either mode has the checksum 0, which is all that VERIFY tests; and the checksum
of `[0xFF]` is at the threshold, where the frame bytes of the modes differ. -/
theorem frameModesAgreeOnVerify : Obligations.FrameModesAgreeOnVerify := by
  refine ⟨fun m m' p => ?packet, fun m m' data => ⟨spec_verify_mode m m' data, spec_compute_mode m m' data⟩,
    asElements [0xFF#8], spec_frame_modes_ne ?threshold, spec_frameComplete_modes_ne ?threshold⟩
  case packet => rw [verifyIsChecksumZero, framedPacketHasChecksumZero, decide_eq_true rfl]
  case threshold => rw [crc16_FF]; decide

end Sys2Proof.Machine
end

section
/-! RESET (70_reset_and_hazards.md R200 to R205): what it clears, and that a host sees nothing of it in IDLE. -/

namespace Sys2Proof.Machine

theorem hostReady_reset {s : State} {rest : List HostAction} (hs : s.script = .reset :: rest) :
    hostReady s = true := by
  simp only [hostReady, hs]

/-- Settles O26: the invariant of the reset state asks for nothing that the cleared fields held. -/
theorem resetEstablishesTheInvariant : Obligations.ResetEstablishesTheInvariant :=
  resetBlock_inv

/-- Settles O23: RESET is always enabled, and outside BUSY no BLOCK step is, so there the step takes it. -/
theorem resetClearsEveryField : Obligations.ResetClearsEveryField := by
  intro s rest hs
  refine ⟨_, hostStep_reset hs, rfl, statusView_idle rfl, rfl, fun hp => ?_⟩
  rw [step_host (hostReady_reset hs) (blockReady_eq_false hp), hostStep_reset hs]

/-- Settles O24: both agents have an enabled action, and the schedule names the host. -/
theorem resetInBusyAbandonsTheTransaction : Obligations.ResetInBusyAbandonsTheTransaction := by
  intro s rest later _ hb hs hsched
  rw [step_choice (hostReady_reset hs) hb, chooseAgent_of_schedule hsched]
  exact hostStep_reset (s := { s with schedule := later }) hs

/-- An accepted SUBMIT overwrites every field that RESET clears but `resp`. -/
theorem accept_resetBlock {s : State} (hr : s.resp = none) (o : Op) (bs : List Byte) :
    accept o bs (resetBlock s) = accept o bs s := by
  simp [accept, resetBlock, hr]

/-- Settles O25: in IDLE the invariant has `resp` empty already, and the other fields that RESET clears are
overwritten by an accepted SUBMIT and unread by a rejected one. -/
theorem resetInIdleIsInvisible : Obligations.ResetInIdleIsInvisible := by
  intro s hinv hp
  have hr : s.resp = none := hinv.resp_eq_none (by simp [hp])
  have hq : (resetBlock s).phase = .idle := resetBlock_phase s
  refine ⟨?status, hr.symm, rfl, fun i bs hd ha => ?valid, fun i hinvalid ha => ?invalid⟩
  case status => rw [statusView_idle hp, statusView_idle hq]
  case valid => rw [exec_eq_accept hd hq ha, exec_eq_accept hd hp ha, accept_resetBlock hr]
  case invalid =>
    exact ⟨_, _, rejectedSubmitWritesOnlyTheError i s hp ha hinvalid,
      rejectedSubmitWritesOnlyTheError i (resetBlock s) hq ha hinvalid, rfl, rfl, rfl, rfl⟩

end Sys2Proof.Machine
end
